-- ==== Sys2Proof/Word.lean ====
section
/-! DEFINITION. The word types of the block: bytes, 16-bit and 32-bit fields (00_scope.md R11), and the type `F` of its
real-valued state with the formats it may have (R12). -/

namespace Sys2Proof

/-- `u8` of R11: one byte of a message, a frame or the serial line. -/
abbrev Byte := BitVec 8

/-- `u16` of R11: a holding register, a CRC value, a 16-bit operand. -/
abbrev Half := BitVec 16

/-- A binary32 interchange pattern, as an `F` operand or result travels on the host interface (R53). -/
abbrev Pattern := BitVec 32

/-- A value of `F` (R12): a NaN, an infinity, or a finite value whose magnitude is `man` times two to the power `exp`. The two
zeros are told apart by the sign. Rounding answers finite values in ONE form: `man` odd, or `man = 0` and `exp = 0`. -/
inductive F where
  | nan
  | inf (neg : Bool)
  | fin (neg : Bool) (man : Nat) (exp : Int)
deriving DecidableEq, Repr

/-- A binary floating-point format (`P_FMT`, R9): `prec` significant bits, `emin` the exponent of the least bit of a
subnormal, `emax` the exponent of the leading bit of the greatest finite value. -/
structure Fmt where
  prec : Nat
  emin : Int
  emax : Int
deriving DecidableEq, Repr

/-- IEEE 754 binary32, the default of `P_FMT` (R9, D3). -/
def Fmt.binary32 : Fmt := ⟨24, -149, 127⟩

/-- `+0.0`. -/
abbrev F.zero : F := .fin false 0 0

end Sys2Proof
end

