-- ==== Sys2Proof/Machine/Float.lean ====
section
/-! DEFINITION. The arithmetic of `F` (00_scope.md R12): correctly rounded add, subtract, multiply and divide, ties to even,
overflow to an infinity; comparison, absolute value; conversion from integers, literals and binary32 patterns, and to
binary32 patterns. Every operation is computed exactly on naturals or integers and rounded once. -/

namespace Sys2Proof.Machine

/-- Strip factors of two from a mantissa, raising the exponent: the one form of a finite value. `fuel` bounds the loop. -/
def stripTwos : Nat → Nat → Int → Nat × Int
  | 0, m, e => (m, e)
  | fuel + 1, m, e => if m % 2 = 0 then stripTwos fuel (m / 2) (e + 1) else (m, e)

/-- The one form of the finite value with sign `neg` and magnitude `m` times two to the power `e`. -/
def fNorm (neg : Bool) (m : Nat) (e : Int) : F :=
  if m = 0 then .fin neg 0 0
  else
    let r := stripTwos (Nat.log2 m) m e
    .fin neg r.1 r.2

/-- `m` divided by two to the power `sh`, to the nearest integer, ties to even. -/
def halfEven (m sh : Nat) : Nat :=
  if sh = 0 then m
  else
    let q := m / 2 ^ sh
    let r := m % 2 ^ sh
    let half := 2 ^ (sh - 1)
    if half < r ∨ (r = half ∧ q % 2 = 1) then q + 1 else q

/-- `fl` of R12 on the exact value with sign `neg` and magnitude `m` times two to the power `e`: the nearest value of the
format, ties to even; a magnitude beyond the greatest finite value gives the infinity of its sign. -/
def fRound (f : Fmt) (neg : Bool) (m : Nat) (e : Int) : F :=
  if m = 0 then .fin neg 0 0
  else
    let q := max (e + (Nat.log2 m + 1 : Nat) - f.prec) f.emin
    let m' := if q ≤ e then m else halfEven m (q - e).toNat
    let e' := if q ≤ e then e else q
    if m' = 0 then .fin neg 0 0
    else if f.emax < e' + (Nat.log2 m' : Nat) then .inf neg
    else fNorm neg m' e'

/-- The signed integer that a finite value is, in units of two to the power `e₀` (for `e₀` at most its exponent). -/
def scaled (e₀ : Int) (neg : Bool) (m : Nat) (e : Int) : Int :=
  if neg then -((m * 2 ^ (e - e₀).toNat : Nat) : Int) else ((m * 2 ^ (e - e₀).toNat : Nat) : Int)

/-- Negation: the sign flipped. -/
def fNeg : F → F
  | .nan => .nan
  | .inf n => .inf (!n)
  | .fin n m e => .fin (!n) m e

/-- `abs` of R12: the sign cleared, exact. -/
def fAbs : F → F
  | .nan => .nan
  | .inf _ => .inf false
  | .fin _ m e => .fin false m e

/-- `a ⊕ b` of R12. A sum that is exactly zero has the operands' common sign, else plus (IEEE 754 roundTiesToEven). -/
def fAdd (f : Fmt) : F → F → F
  | .nan, _ => .nan
  | _, .nan => .nan
  | .inf n, .inf n' => if n = n' then .inf n else .nan
  | .inf n, .fin _ _ _ => .inf n
  | .fin _ _ _, .inf n => .inf n
  | .fin n m e, .fin n' m' e' =>
    let e₀ := min e e'
    let v := scaled e₀ n m e + scaled e₀ n' m' e'
    if v = 0 then .fin (n && n') 0 0 else fRound f (decide (v < 0)) v.natAbs e₀

/-- `a ⊖ b` of R12. -/
def fSub (f : Fmt) (a b : F) : F := fAdd f a (fNeg b)

/-- `a ⊗ b` of R12; an infinity times a zero is a NaN. -/
def fMul (f : Fmt) : F → F → F
  | .nan, _ => .nan
  | _, .nan => .nan
  | .inf n, .inf n' => .inf (n != n')
  | .inf n, .fin n' m' _ => if m' = 0 then .nan else .inf (n != n')
  | .fin n m _, .inf n' => if m = 0 then .nan else .inf (n != n')
  | .fin n m e, .fin n' m' e' => fRound f (n != n') (m * m') (e + e')

/-- Division of R12: the quotient is taken to more than `prec + 1` bits with a sticky bit below, then rounded once. -/
def fDiv (f : Fmt) : F → F → F
  | .nan, _ => .nan
  | _, .nan => .nan
  | .inf _, .inf _ => .nan
  | .inf n, .fin n' _ _ => .inf (n != n')
  | .fin n _ _, .inf n' => .fin (n != n') 0 0
  | .fin n m e, .fin n' m' e' =>
    if m' = 0 then (if m = 0 then .nan else .inf (n != n'))
    else
      let k := f.prec + 3 + Nat.log2 m'
      let q := m * 2 ^ k / m'
      let r := m * 2 ^ k % m'
      fRound f (n != n') (2 * q + (if r = 0 then 0 else 1)) (e - e' - k - 1)

/-- `a ≤ b` on `F` (R12): false if either side is a NaN. -/
def fLe : F → F → Bool
  | .nan, _ => false
  | _, .nan => false
  | .inf true, _ => true
  | _, .inf false => true
  | .inf false, .fin _ _ _ => false
  | .inf false, .inf true => false
  | .fin _ _ _, .inf true => false
  | .fin n m e, .fin n' m' e' => decide (scaled (min e e') n m e ≤ scaled (min e e') n' m' e')

/-- A NaN. -/
def fIsNan : F → Bool
  | .nan => true
  | _ => false

/-- Neither a NaN nor an infinity. -/
def fIsFinite : F → Bool
  | .fin _ _ _ => true
  | _ => false

/-- `a < b` on `F` (R12): false if either side is a NaN. -/
def fLt (a b : F) : Bool := !fIsNan a && !fIsNan b && !fLe b a

/-- `fl` of an integer. -/
def fOfInt (f : Fmt) (v : Int) : F := fRound f (decide (v < 0)) v.natAbs 0

/-- The decimal literal with digits `n` and `d` digits after the point, where an `F` is needed: `fl` of its value (R12). -/
def fLit (f : Fmt) (neg : Bool) (n d : Nat) : F := fDiv f (.fin neg n 0) (.fin false (10 ^ d) 0)

/-- A value of any format brought into `f`: itself if representable, else rounded by `fl` (30_encoding.md R71). -/
def fConv (f : Fmt) : F → F
  | .fin n m e => fRound f n m e
  | x => x

/-- The value of a binary32 interchange pattern. -/
def fOfPattern (b : Pattern) : F :=
  let neg := b.getLsbD 31
  let ex := ((b >>> 23) &&& 0xFF).toNat
  let frac := (b &&& 0x7FFFFF).toNat
  if ex = 255 then (if frac = 0 then .inf neg else .nan)
  else if ex = 0 then fNorm neg frac (-149)
  else fNorm neg (frac + 2 ^ 23) ((ex : Int) - 150)

/-- The fields of a binary32 pattern put together: sign, biased exponent, fraction. -/
def packPattern (neg : Bool) (ex frac : Nat) : Pattern :=
  BitVec.ofNat 32 ((if neg then 2 ^ 31 else 0) + ex * 2 ^ 23 + frac)

/-- The binary32 pattern of a value that binary32 represents; none for a NaN (no one pattern) and for a value of another
format that binary32 does not hold. -/
def fPattern? : F → Option Pattern
  | .nan => none
  | .inf n => some (packPattern n 255 0)
  | .fin n m e =>
    if m = 0 then some (packPattern n 0 0)
    else
      match fNorm n m e with
      | .fin n' m' e' =>
        if fRound Fmt.binary32 n' m' e' = .fin n' m' e' then
          let top := e' + (Nat.log2 m' : Nat)
          if -126 ≤ top then
            some (packPattern n' (top + 127).toNat (m' * 2 ^ (23 - Nat.log2 m') - 2 ^ 23))
          else some (packPattern n' 0 (m' * 2 ^ (e' + 149).toNat))
        else none
      | _ => none

end Sys2Proof.Machine
end

