-- ==== Sys2Proof/Config.lean ====
section
/-! DEFINITION. What an implementation fixes: the parameter record of 00_scope.md R9 with its defaults, the channel
configuration a reset takes (70_reset_and_hazards.md R142), and the free values (environment draws of R15 that nothing in
State has settled). -/

namespace Sys2Proof

/-- Four values of `F`, one per stage index 0..3 (R10): stage fractions, stage targets. -/
structure Quad where
  q0 : F
  q1 : F
  q2 : F
  q3 : F
deriving DecidableEq, Repr

/-- What `P_SERIAL` holds (D37): baud rate, data bits, parity, stop bits, and the inter-frame timing, in milliseconds (R18). -/
structure SerialSettings where
  baud : Nat
  dataBits : Nat
  /-- none, or whether the parity is odd -/
  parity : Option Bool
  stopBits : Nat
  interFrameMs : Nat
deriving DecidableEq, Repr

/-- The parameters that R9 marks OPEN. No rule reads them: what they bound is an event of the environment (D28, D37; log 14). -/
structure OpenParams where
  /-- `P_CYCLE_MS`; an interval, so positive (log 14) -/
  cycleMs : { n : Nat // 0 < n }
  /-- `P_STOP_GRACE_MS`; finite and positive (D38) -/
  stopGraceMs : { n : Nat // 0 < n }
  /-- `P_SERIAL` -/
  serial : SerialSettings
deriving DecidableEq, Repr

/-- The parameters of R9, but for `P_N` (the length of the register file, log 20) and the fixed `P_SEED` and `P_POLY`. A reset does
not ask that those of type `F` are finite (DESIGN CHOICE, log 27). -/
structure Params where
  /-- `P_FMT` -/
  fmt : Fmt
  /-- `P_BCAST` -/
  bcast : Byte
  /-- `P_REG_TEMP` -/
  regTemp : Half
  /-- `P_REG_ADDR` -/
  regAddr : Half
  /-- `P_TEMP_SCALE` -/
  tempScale : F
  /-- `P_TEMP_SIGNED` -/
  tempSigned : Bool
  /-- `P_TIMEOUT_MS` -/
  timeoutMs : Nat
  /-- `P_ATT_DISC` -/
  attDisc : Nat
  /-- `P_ATT_WRITE` -/
  attWrite : Nat
  /-- `P_ATT_READ` -/
  attRead : Nat
  /-- `P_DEADBAND` -/
  deadband : F
  /-- `P_ILIM` -/
  iLim : F
  /-- `P_OUT_MAX`; a value above 100 is not refused (DESIGN CHOICE, log 25) -/
  outMax : F
  /-- `P_STAGE_FRAC` -/
  stageFrac : Quad
  /-- `P_STAGE_TOL` -/
  stageTol : F
  /-- `P_HOLD_MS` -/
  holdMs : Nat
  /-- `P_READY_LO` -/
  readyLo : F
  /-- `P_READY_HI` -/
  readyHi : F
  /-- `P_ADDR_MIN` -/
  addrMin : Byte
  /-- `P_ADDR_MAX` -/
  addrMax : Byte
  /-- `P_CYCLE_MS`, `P_STOP_GRACE_MS`, `P_SERIAL` -/
  opens : OpenParams
deriving DecidableEq, Repr

/-- R9's default column, its real literals read in the format `f` (R12: a literal denotes `fl` of its value), with the values `o` for
the parameters that have no default. -/
def Params.defaultIn (f : Fmt) (o : OpenParams) : Params where
  fmt := f
  bcast := 0xFF
  regTemp := 0x0000
  regAddr := 0x0002
  tempScale := Machine.fLit f false 10 0
  tempSigned := false
  timeoutMs := 1000
  attDisc := 3
  attWrite := 3
  attRead := 1
  deadband := Machine.fLit f false 5 1
  iLim := Machine.fLit f false 100 0
  outMax := Machine.fLit f false 100 0
  stageFrac := ⟨Machine.fLit f false 25 2, Machine.fLit f false 50 2, Machine.fLit f false 75 2, Machine.fLit f false 100 2⟩
  stageTol := Machine.fLit f false 5 0
  holdMs := 60000
  readyLo := Machine.fLit f false 92 2
  readyHi := Machine.fLit f false 108 2
  addrMin := 1
  addrMax := 254
  opens := o

/-- All of R9's defaults, binary32, with any values for the open parameters. -/
def Params.defaultWith (o : OpenParams) : Params := Params.defaultIn Fmt.binary32 o

/-- DESIGN CHOICE (log 14, unsafe): the open parameters of `State.reset`. R9 gives none; the interval is the lower end of the source's
example range, the grace period the least that D38 allows, the line settings zero. -/
def Config.openParams : OpenParams := ⟨⟨500, by decide⟩, ⟨1, by decide⟩, ⟨0, 0, none, 0, 0⟩⟩

/-- The parameters of `State.reset`: all of R9's defaults, and the open parameters of log 14. -/
def Params.default : Params := Params.defaultWith Config.openParams

/-- One channel's entry of the configuration record a reset takes (R142). That its values are values of `P_FMT` is not asked by the
type (DESIGN CHOICE, log 26). -/
structure ChanCfg where
  addr : Byte
  kp : F
  ki : F
  kd : F
  sp : F
deriving DecidableEq, Repr

/-- The default of `P_N` (R9). -/
def Config.channelCount : Nat := 6

/-- DESIGN CHOICE (log 1, unsafe): the configuration record of `State.reset`. The spec says a reset takes one and gives no
values; addresses 1..6 are legal, gains and setpoints are +0.0. -/
def Config.channels : List ChanCfg :=
  [⟨1, .zero, .zero, .zero, .zero⟩, ⟨2, .zero, .zero, .zero, .zero⟩, ⟨3, .zero, .zero, .zero, .zero⟩,
   ⟨4, .zero, .zero, .zero, .zero⟩, ⟨5, .zero, .zero, .zero, .zero⟩, ⟨6, .zero, .zero, .zero, .zero⟩]

/-- `P_SEED` (R9: fixed, not a free parameter). -/
def Config.crcSeed : Half := 0xFFFF

/-- `P_POLY` (R9: fixed). -/
def Config.crcPoly : Half := 0xA001

/-- Free value: the bytes the bus delivers in the `n`-th response wait that no entry of the state settles (R15, I5; log 2). -/
opaque Config.freeRx : Nat → List Byte

/-- Free value: the actuator driver's answer (R124, R125, I7; log 2). -/
opaque Config.freeAct : Nat → Bool

/-- Free value: whether a background context could be created (R112, I8; log 2). -/
opaque Config.freeSpawn : Nat → Bool

/-- Free value: by how much `Now()` moved on since its last answer (R137, I9; log 3). -/
opaque Config.freeAdvance : Nat → Nat

/-- Free value: the pattern a result carries for a value that has no binary32 pattern of its own (`P_FMT` other than
binary32; R75, R76 do not state it; log 12). -/
opaque Config.freePattern : F → Pattern

/-- Free value: the integer a duty quantisation gives for a NaN, an infinity or a negative value, outside the domain that R123
states (log 19). -/
opaque Config.freeDuty : F → Nat

end Sys2Proof
end

