-- ==== Sys2Proof/Machine/Bytes.lean ====
section
/-! DEFINITION. Byte-order helpers of 00_scope.md R11 and 20_memory.md R51-R53. -/

namespace Sys2Proof.Machine

/-- `hi(w)` of R11. -/
def hi (w : Half) : Byte := w.extractLsb' 8 8

/-- `lo(w)` of R11. -/
def lo (w : Half) : Byte := w.extractLsb' 0 8

/-- `be16(h, l)` of R11: the high byte first. -/
def be16 (h l : Byte) : Half := (h.zeroExtend 16 <<< 8) ||| l.zeroExtend 16

/-- Four bytes read most significant first (R53, R71). -/
def be32 (b3 b2 b1 b0 : Byte) : Pattern :=
  (b3.zeroExtend 32 <<< 24) ||| (b2.zeroExtend 32 <<< 16) ||| (b1.zeroExtend 32 <<< 8) ||| b0.zeroExtend 32

/-- A pattern as four bytes, most significant first (R53). -/
def bytes32 (x : Pattern) : List Byte :=
  [x.extractLsb' 24 8, x.extractLsb' 16 8, x.extractLsb' 8 8, x.extractLsb' 0 8]

/-- A bit as a byte 0 or 1 (30_encoding.md R75). -/
def bitByte (b : Bool) : Byte := if b then 1 else 0

end Sys2Proof.Machine
end

