-- ==== Sys2Proof/Machine/Crc.lean ====
section
/-! DEFINITION. The CRC-16/Modbus datapath, 41_crc.md R86-R90. -/

namespace Sys2Proof.Machine

/-- R86: one bit step. -/
def crcBit (c : Half) : Half := if c.getLsbD 0 then (c >>> 1) ^^^ Config.crcPoly else c >>> 1

/-- R87: one byte step, the byte XORed into the low byte, then eight bit steps. -/
def crcByte (c : Half) (b : Byte) : Half :=
  crcBit (crcBit (crcBit (crcBit (crcBit (crcBit (crcBit (crcBit (c ^^^ b.zeroExtend 16))))))))

/-- R88: the CRC of a byte string, from the seed, bytes in index order. -/
def crc16 (s : List Byte) : Half := s.foldl crcByte Config.crcSeed

/-- R89: the string with its trailer, low byte first. -/
def withCrc (s : List Byte) : List Byte := s ++ [lo (crc16 s), hi (crc16 s)]

/-- R90: the check of a received frame of at least two bytes; a shorter string has no trailer and fails. -/
def crcOk (f : List Byte) : Bool :=
  match (f.drop (f.length - 2)) with
  | [cl, ch] => crc16 (f.take (f.length - 2)) == be16 ch cl
  | _ => false

end Sys2Proof.Machine
end

