-- ==== Sys2Proof/Machine/Frames.lean ====
section
/-! DEFINITION. Frame encoders and decoders, 42_modbus.md R95-R99, over the layouts of 30_encoding.md R79-R83. -/

namespace Sys2Proof.Machine

/-- Per-attempt causes of 60_exceptions.md R127. -/
inductive Cause where
  | timeout
  | crcBad
  | echoBad
  | unusable
deriving DecidableEq, Repr

/-- Which decoder a transaction of R100 runs on the bytes received: R97's, R103's `disc_dec`, or R98's echo check. -/
inductive RespKind where
  | resp3
  | disc
  | echo
deriving DecidableEq, Repr

/-- R95: the function-3 request for one register. -/
def req3 (a : Byte) (r : Half) : List Byte := withCrc [a, 0x03, hi r, lo r, 0x00, 0x01]

/-- R96: the function-6 request, always to register 0x0002. -/
def req6 (a : Byte) (w : Half) : List Byte := withCrc [a, 0x06, 0x00, 0x02, hi w, lo w]

/-- R97: bytes 3 and 4 of a response whose CRC holds; bytes 0..2 are not compared. -/
def resp3 (f : List Byte) : Except Cause Half :=
  if crcOk f then .ok (be16 (f.getD 3 0) (f.getD 4 0)) else .error .crcBad

/-- R98: the CRC first, then bytes 1..5 against the request's; byte 0 is not compared. -/
def echo6 (f q : List Byte) : Except Cause Unit :=
  if ¬ crcOk f then .error .crcBad
  else if (f.drop 1).take 5 ≠ (q.drop 1).take 5 then .error .echoBad
  else .ok ()

/-- R103's `disc_dec`: a data value above 0xFF is unusable. -/
def discDec (f : List Byte) : Except Cause Half :=
  match resp3 f with
  | .ok v => if v ≤ 0xFF then .ok v else .error .unusable
  | .error c => .error c

/-- The decoder of a transaction as one function to a 16-bit value (an accepted echo carries none: 0). -/
def decodeResponse (k : RespKind) (q f : List Byte) : Except Cause Half :=
  match k with
  | .resp3 => resp3 f
  | .disc => discDec f
  | .echo =>
    match echo6 f q with
    | .ok () => .ok 0
    | .error c => .error c

/-- R99: the temperature a raw register value stands for. -/
def temp (p : Params) (raw : Half) : F :=
  fDiv p.fmt (fOfInt p.fmt (if p.tempSigned then raw.toInt else (raw.toNat : Int))) p.tempScale

end Sys2Proof.Machine
end

