-- ==== Sys2Proof/Machine/Targets.lean ====
section
/-! DEFINITION. Stage targets, 43_pid_stage.md R105, as a function of the setpoint. -/

namespace Sys2Proof.Machine

/-- The entry of a stage index 0..3. -/
def stageOf (q : Quad) (k : Fin 4) : F :=
  match k with
  | 0 => q.q0
  | 1 => q.q1
  | 2 => q.q2
  | 3 => q.q3

/-- R105: the setpoint times each stage fraction. -/
def targetsOf (p : Params) (sp : F) : Quad :=
  ⟨fMul p.fmt sp p.stageFrac.q0, fMul p.fmt sp p.stageFrac.q1, fMul p.fmt sp p.stageFrac.q2, fMul p.fmt sp p.stageFrac.q3⟩

end Sys2Proof.Machine
end

