-- ==== Sys2Proof/Syntax.lean ====
section
/-! DEFINITION. The instructions: the 13 host commands (30_encoding.md R72) and the 4 Modbus RTU frames (R80-R83), one
constructor per row of the opcode table, and the interface each is encoded for. -/

namespace Sys2Proof

/-- One constructor per row of spec/opcode_table.json. Operands are the encoded fields, unscaled (R71); a frame the block
emits has its CRC computed (R89), a frame it accepts carries the CRC it came with. -/
inductive Instr where
  /-- START, H0 -/
  | start
  /-- STOP, H0 -/
  | stop
  /-- ENABLE b, H1 -/
  | enable (b : Byte)
  /-- STEP, H0 -/
  | stepCycle
  /-- SET_GAINS ch, kp, ki, kd, H4 -/
  | setGains (ch : Byte) (kp ki kd : Pattern)
  /-- SET_SETPOINT ch, x, H3 -/
  | setSetpoint (ch : Byte) (x : Pattern)
  /-- STATUS, H0 -/
  | status
  /-- DISCOVER, H0 -/
  | discover
  /-- ASSIGN w, H2 -/
  | assign (w : Half)
  /-- READ_TEMP b, H1 -/
  | readTemp (b : Byte)
  /-- CRC_INIT, H0 -/
  | crcInit
  /-- CRC_FEED b, H1 -/
  | crcFeed (b : Byte)
  /-- CRC_READ, H0 -/
  | crcRead
  /-- MB_REQ3, R80: slave address, register -/
  | mbReq3 (addr : Byte) (reg : Half)
  /-- MB_REQ6, R81: slave address, data for register 0x0002 -/
  | mbReq6 (addr : Byte) (data : Half)
  /-- MB_RESP3, R82 -/
  | mbResp3 (addr func count : Byte) (data crc : Half)
  /-- MB_RESP6, R83 -/
  | mbResp6 (addr func : Byte) (reg data crc : Half)
deriving DecidableEq, Repr

/-- Where an encoding is read: the host interface, a frame to transmit, or a frame received for an outstanding function-3
or function-6 request (R84: the kind comes from the request, not from the bytes). -/
inductive Port where
  | host
  | tx
  | rx3
  | rx6
deriving DecidableEq, Repr

/-- The interface an instruction is encoded for. -/
def Instr.port : Instr → Port
  | .start => .host
  | .stop => .host
  | .enable _ => .host
  | .stepCycle => .host
  | .setGains _ _ _ _ => .host
  | .setSetpoint _ _ => .host
  | .status => .host
  | .discover => .host
  | .assign _ => .host
  | .readTemp _ => .host
  | .crcInit => .host
  | .crcFeed _ => .host
  | .crcRead => .host
  | .mbReq3 _ _ => .tx
  | .mbReq6 _ _ => .tx
  | .mbResp3 _ _ _ _ _ => .rx3
  | .mbResp6 _ _ _ _ _ => .rx6

/-- The length in bytes of an instruction's encoding (R70, R80-R83). -/
def Instr.length : Instr → Nat
  | .start => 1
  | .stop => 1
  | .enable _ => 2
  | .stepCycle => 1
  | .setGains _ _ _ _ => 14
  | .setSetpoint _ _ => 6
  | .status => 1
  | .discover => 1
  | .assign _ => 3
  | .readTemp _ => 2
  | .crcInit => 1
  | .crcFeed _ => 2
  | .crcRead => 1
  | .mbReq3 _ _ => 8
  | .mbReq6 _ _ => 8
  | .mbResp3 _ _ _ _ _ => 7
  | .mbResp6 _ _ _ _ _ => 8

end Sys2Proof
end

