-- ==== Sys2Proof/Machine/State.lean ====
section
/-! DEFINITION. The state of the block (10_state.md R19-R46), the reasons a step can stop, and reset as construction from a
configuration (70_reset_and_hazards.md R142). -/

namespace Sys2Proof.Machine

/-- `g.LOOP` (R21). `terminated` is final. -/
inductive Loop where
  | idle
  | runDis
  | runEn
  | terminated
deriving DecidableEq, Repr

/-- `g.MODE` (R24). -/
inductive Mode where
  | unset
  | background
  | caller
deriving DecidableEq, Repr

/-- `g.LOCK` (R27). -/
inductive Lock where
  | free
  | engine
  | host
deriving DecidableEq, Repr

/-- `g.SEQ` (R28): the engine's place in its work. -/
inductive Seq where
  | stopped
  | wait
  | cycle (k : Nat)
  | finish
deriving DecidableEq, Repr

/-- The result codes of the host interface (60_exceptions.md R128), which include the four bus errors. -/
inductive ResultCode where
  | ok
  | busTimeout
  | busChecksumMismatch
  | busNoDevice
  | busWriteUnconfirmed
  | illegalCommand
  | badLength
  | badOperand
  | wrongState
  | stopGraceExpired
deriving DecidableEq, Repr

/-- The records of the log sink (R32, D49): kind and fields; their rendering is not modelled (log 23). -/
inductive LogRecord where
  | attemptFailed (addr : Byte) (cause : Cause) (attempt : Nat)
  | noReading (k : Nat) (err : ResultCode)
  | dutyFailed (i : Nat) (d : Nat)
  | readyFailed (b : Bool)
deriving DecidableEq, Repr

/-- One record of `g.EVENTS` (R32). -/
inductive Event where
  | tx (s : List Byte)
  | rx (s : List Byte)
  | timeout
  | reset
  | duty (i : Nat) (d : Nat)
  | ready (b : Bool)
  | log (e : LogRecord)
deriving DecidableEq, Repr

/-- `g.TXN` (R31): the request, the expected response length, the attempt number (1-based) and the attempt limit; with
R100's decoder, and whether this attempt's request has been transmitted, so that the engine is at the response wait. -/
structure Txn where
  req : List Byte
  len : Nat
  attempt : Nat
  lim : Nat
  kind : RespKind
  sent : Bool
deriving DecidableEq, Repr

/-- One entry of the channel register file (R33-R42), with the channel's `g.DUTY_OUT` (R26). -/
structure Channel where
  index : Nat
  addr : Byte
  kp : F
  ki : F
  kd : F
  sp : F
  stageT : Quad
  stage : Fin 4
  holdSince : Option Nat
  iAcc : F
  prevErr : F
  lastReading : Option F
  dutyOut : Nat
deriving DecidableEq, Repr

/-- The environment as a step meets it (R15): the answers it will give, in order, to the draws made inside one step, and
the time source. When a list is empty the answer is a free value of Config, applied to `drawn` (log 2). -/
structure Env where
  /-- bytes the bus delivers within each response wait of a host-context transaction (I5) -/
  rx : List (List Byte)
  /-- the actuator driver's answers (I7) -/
  act : List Bool
  /-- whether a background context can be created (I8) -/
  spawn : List Bool
  /-- by how many milliseconds each `Now()` exceeds the one before it (I9, log 3) -/
  now : List Nat
  /-- the last answer of `Now()` -/
  clock : Nat
  /-- how many free draws have been taken -/
  drawn : Nat
deriving DecidableEq, Repr

/-- What reaches the block from outside, between or inside its waits (log 5). -/
inductive Input where
  /-- the host delivers one message (30_encoding.md R69) -/
  | host (msg : List Byte)
  /-- bytes arrive on the serial line (R30) -/
  | bus (s : List Byte)
  /-- `P_TIMEOUT_MS` of the response wait have passed (R100) -/
  | timeout
  /-- the next cycle start time has come (44_control.md R120) -/
  | cycleStart
  /-- the engine looks at `g.RUNNING` at its wait point (R101, R120) -/
  | poll
  /-- `P_STOP_GRACE_MS` of STOP's wait have passed (44_control.md R114) -/
  | graceOver
deriving DecidableEq, Repr

/-- Work of the host context that is blocked on the lock (20_memory.md R59, R63): a command, or the engine exit of a STOP
in caller mode. -/
inductive Pending where
  | cmd (i : Instr)
  | callerExit
deriving DecidableEq, Repr

/-- The state of the block. The first group is the spec's, the second the model's own (INVENTORY.md). -/
structure State where
  /-- the parameters of 00_scope.md R9, constant -/
  par : Params
  /-- `g.LOOP` (R21) -/
  loop : Loop
  /-- `g.ENABLED` (R22) -/
  enabled : Bool
  /-- `g.RUNNING` (R23) -/
  running : Bool
  /-- `g.MODE` (R24) -/
  mode : Mode
  /-- `g.READY_OUT` (R25) -/
  readyOut : Bool
  /-- `g.LOCK` (R27) -/
  lock : Lock
  /-- `g.SEQ` (R28) -/
  seq : Seq
  /-- `g.CRC_HOST` (R29) -/
  crcHost : Half
  /-- `g.RXBUF` (R30), oldest byte first -/
  rxbuf : List Byte
  /-- `g.TXN` (R31) -/
  txn : Option Txn
  /-- `g.EVENTS` (R32), oldest first -/
  events : List Event
  /-- the channel register file (R33); `P_N` is its length -/
  ch : List Channel
  /-- the response messages answered, oldest first (30_encoding.md R69; log 15) -/
  replies : List (List Byte)
  /-- what reaches the block next (log 5) -/
  inbox : List Input
  /-- host work blocked on the lock, in arrival order (R63; log 7) -/
  waiting : List Pending
  /-- a STOP is inside its grace wait (44_control.md R114; log 8) -/
  stopWait : Bool
  /-- the environment's answers and the time source (R15, R137) -/
  env : Env
deriving DecidableEq, Repr

/-- Why the block stops with a fault: never. The spec has no fatal error and no state in which the block halts
(60_exceptions.md R130; 93_implementation_defined.md section 1). -/
inductive Fault where
deriving DecidableEq, Repr

/-- Why a step has no meaning. -/
inductive Refusal where
  /-- An instruction without a meaning yet. Raised by no arm of `exec`: every instruction has its meaning. Safe. -/
  | notModelled (mnemonic : String)
deriving DecidableEq, Repr

/-- `P_N` (R9, R33): the number of channels. -/
def State.chanCount (s : State) : Nat := s.ch.length

/-- R46: channel `i` after reset. Its gains and setpoint are the configured values as they are, with no rounding to `P_FMT` (DESIGN CHOICE,
log 26). -/
def Channel.ofConfig (p : Params) (i : Nat) (c : ChanCfg) : Channel where
  index := i
  addr := c.addr
  kp := c.kp
  ki := c.ki
  kd := c.kd
  sp := c.sp
  stageT := targetsOf p c.sp
  stage := 0
  holdSince := none
  iAcc := .zero
  prevErr := .zero
  lastReading := none
  dutyOut := 0

/-- R46: every piece of state after reset, from the parameters and the configuration record. No event is emitted (R142). -/
def State.ofConfig (p : Params) (cfg : List ChanCfg) : State where
  par := p
  loop := .idle
  enabled := false
  running := false
  mode := .unset
  readyOut := false
  lock := .free
  seq := .stopped
  crcHost := 0xFFFF
  rxbuf := []
  txn := none
  events := []
  ch := cfg.mapIdx (Channel.ofConfig p)
  replies := []
  inbox := []
  waiting := []
  stopWait := false
  env := ⟨[], [], [], [], 0, 0⟩

/-- R142: the preconditions of reset. Distinct addresses are not among them (R144). A finite value that is no value of
`P_FMT` is accepted (DESIGN CHOICE, log 26). R142's test that every `F` value is finite is made of the entries' gains and setpoint and not
of the `F`-valued parameters of R9, so that a NaN or infinite parameter is accepted (DESIGN CHOICE, log 27). -/
def resetLegal (p : Params) (n : Nat) (cfg : List ChanCfg) : Bool :=
  decide (1 ≤ n) && decide (cfg.length = n) &&
    cfg.all fun c => decide (p.addrMin ≤ c.addr) && decide (c.addr ≤ p.addrMax) && fIsFinite c.kp && fIsFinite c.ki &&
      fIsFinite c.kd && fIsFinite c.sp

/-- R142: reset from `P_N` and a configuration record; none where the preconditions fail (no block exists, I16). -/
def State.construct (p : Params) (n : Nat) (cfg : List ChanCfg) : Option State :=
  if resetLegal p n cfg then some (State.ofConfig p cfg) else none

/-- The machine right after reset: R9's default parameters, the open ones of log 14, and the configuration record of log 1. -/
def State.reset : State := State.ofConfig Params.default Config.channels

end Sys2Proof.Machine
end

