-- ==== Sys2Proof/Machine/Ops.lean ====
section
/-! DEFINITION. The named operations over the state: the environment primitives of 00_scope.md R15, environment draws, the
channel register file, the lock (20_memory.md R59), responses (30_encoding.md R69), `raise` (R15) and recovery from a failed
attempt (60_exceptions.md R133). The block has no memory, no trap entry and no return from one (R16, R133, R134). -/

namespace Sys2Proof.Machine

/-- R128: the byte of a result code. -/
def codeByte : ResultCode → Byte
  | .ok => 0x00
  | .busTimeout => 0x01
  | .busChecksumMismatch => 0x02
  | .busNoDevice => 0x03
  | .busWriteUnconfirmed => 0x04
  | .illegalCommand => 0x10
  | .badLength => 0x11
  | .badOperand => 0x12
  | .wrongState => 0x13
  | .stopGraceExpired => 0x14

/-- R32: append one record to the event history. -/
def addEvent (e : Event) (s : State) : State := { s with events := s.events ++ [e] }

/-- R15 `Log(e)`. -/
def logRecord (e : LogRecord) (s : State) : State := addEvent (.log e) s

/-- R69: answer the message with OK and `data`. -/
def respondOk (data : List Byte) (s : State) : State := { s with replies := s.replies ++ [codeByte .ok :: data] }

/-- R15 `raise E`, R130: the command ends with the error result, without data (R76) and without any other effect. -/
def raise (e : ResultCode) (s : State) : State := { s with replies := s.replies ++ [[codeByte e]] }

/-- R59: take the lock. Callers check that it is free. -/
def acquire (o : Lock) (s : State) : State := { s with lock := o }

/-- R59: release the lock. -/
def release (s : State) : State := { s with lock := .free }

/-- Rewrite channel `i`; no effect where there is none. -/
def modChan (i : Nat) (f : Channel → Channel) (s : State) : State := { s with ch := s.ch.modify i f }

/-- Run `body i` for every channel index in order 0..P_N-1. -/
def forChans (body : Nat → State → State) (s : State) : State :=
  (List.range s.chanCount).foldl (fun t i => body i t) s

/-- R15 `RxFlush()`. -/
def rxFlush (s : State) : State := { s with rxbuf := [] }

/-- R15 `TxWrite(q)`. -/
def txWrite (q : List Byte) (s : State) : State := addEvent (.tx q) s

/-- R15 `TransportReset()`: always succeeds and clears the receive buffer (R134, D36). -/
def transportReset (s : State) : State := addEvent .reset (rxFlush s)

/-- A draw of the actuator driver's answer (R124, I7). -/
def drawAct (s : State) : Bool × State :=
  match s.env.act with
  | b :: rest => (b, { s with env := { s.env with act := rest } })
  | [] => (Config.freeAct s.env.drawn, { s with env := { s.env with drawn := s.env.drawn + 1 } })

/-- A draw of whether a background context could be created (R112, I8). -/
def drawSpawn (s : State) : Bool × State :=
  match s.env.spawn with
  | b :: rest => (b, { s with env := { s.env with spawn := rest } })
  | [] => (Config.freeSpawn s.env.drawn, { s with env := { s.env with drawn := s.env.drawn + 1 } })

/-- R15 `Now()`: the answer never goes back (R137, R150; log 3). -/
def readNow (s : State) : Nat × State :=
  match s.env.now with
  | d :: rest => (s.env.clock + d, { s with env := { s.env with now := rest, clock := s.env.clock + d } })
  | [] =>
    let t := s.env.clock + Config.freeAdvance s.env.drawn
    (t, { s with env := { s.env with clock := t, drawn := s.env.drawn + 1 } })

/-- A draw of the bytes that the bus delivers within one response wait (R15, I5). -/
def drawRx (s : State) : List Byte × State :=
  match s.env.rx with
  | b :: rest => (b, { s with env := { s.env with rx := rest } })
  | [] => (Config.freeRx s.env.drawn, { s with env := { s.env with drawn := s.env.drawn + 1 } })

/-- The first `n` bytes of the receive buffer, taken out of it (R15 `RxExact`, R57); none if there are fewer. -/
def takeRx (n : Nat) (s : State) : Option (List Byte) × State :=
  if n ≤ s.rxbuf.length then (some (s.rxbuf.take n), { s with rxbuf := s.rxbuf.drop n }) else (none, s)

/-- R15 `RxExact(n, P_TIMEOUT_MS)` in the host context: the bytes of the wait arrive, then exactly `n` are taken, or the wait
times out with what arrived still buffered (R100: a short frame is a timeout, further bytes stay). -/
def rxExact (n : Nat) (s : State) : Option (List Byte) × State :=
  takeRx n { (drawRx s).2 with rxbuf := s.rxbuf ++ (drawRx s).1 }

/-- R15 `SetDuty(i, d)` and R124: the event, the driver's answer, a record if it failed, and the block's own record. -/
def setDuty (i d : Nat) (s : State) : State :=
  let r := drawAct (addEvent (.duty i d) s)
  modChan i (fun c => { c with dutyOut := d }) (if r.1 then r.2 else logRecord (.dutyFailed i d) r.2)

/-- R15 `SetReady(b)` and R125. -/
def setReady (b : Bool) (s : State) : State :=
  let r := drawAct (addEvent (.ready b) s)
  { (if r.1 then r.2 else logRecord (.readyFailed b) r.2) with readyOut := b }

/-- R133, in place of a trap entry: after a failed attempt the transport is reset, then one record is appended. -/
def recover (t : Txn) (c : Cause) (s : State) : State :=
  logRecord (.attemptFailed (t.req.headD 0) c t.attempt) (transportReset s)

end Sys2Proof.Machine
end

