-- ==== Sys2Proof/Machine/Flags.lean ====
section
/-! DEFINITION. The status flags and status fields (10_state.md R21-R25, R43): their codes, the one place that writes
`g.LOOP` with `g.ENABLED`, and the layout of the STATUS result (30_encoding.md R75). No datapath operation sets a flag. -/

namespace Sys2Proof.Machine

/-- R21: the code of `g.LOOP`. -/
def loopCode : Loop → Byte
  | .idle => 0
  | .runDis => 1
  | .runEn => 2
  | .terminated => 3

/-- R24: the code of `g.MODE`. -/
def modeCode : Mode → Byte
  | .unset => 0
  | .background => 1
  | .caller => 2

/-- `g.LOOP` is RUN_DIS or RUN_EN. -/
def loopRuns (s : State) : Bool := s.loop == .runDis || s.loop == .runEn

/-- R22: `g.LOOP` and `g.ENABLED` are written together; the flag is 1 exactly in RUN_EN. -/
def enterLoop (l : Loop) (s : State) : State := { s with loop := l, enabled := l == .runEn }

/-- R75, R76: the binary32 pattern of a value; a free value where it has none (log 12). -/
def bits32 (x : F) : Pattern := (fPattern? x).getD (Config.freePattern x)

/-- R75: the 7-byte record of a channel. -/
def statusRecord (c : Channel) : List Byte :=
  (match c.lastReading with
    | some m => 1 :: bytes32 (bits32 m)
    | none => [0, 0, 0, 0, 0]) ++ [BitVec.ofNat 8 c.stage.val, BitVec.ofNat 8 c.dutyOut]

/-- R75: the data of a STATUS response, 5 + 7·P_N bytes. -/
def statusData (s : State) : List Byte :=
  [loopCode s.loop, modeCode s.mode, bitByte s.running, bitByte s.enabled, bitByte s.readyOut] ++ s.ch.flatMap statusRecord

end Sys2Proof.Machine
end

