-- ==== Sys2Proof/Machine/Bus.lean ====
section
/-! DEFINITION. The transaction engine, 42_modbus.md R100, and the bus operations built on it, R102-R104, as the host
context runs them (synchronously, never cancelled: R101). The background engine shares `transmit`, `judge` and `recover`
(Machine/Cycle.lean). -/

namespace Sys2Proof.Machine

/-- R100, before the loop: a transaction at its first attempt, its request not yet transmitted. -/
def newTxn (q : List Byte) (len lim : Nat) (k : RespKind) : Txn := ⟨q, len, 1, lim, k, false⟩

/-- R100: `RxFlush(); TxWrite(q)`; the engine is then at the response wait. -/
def transmit (t : Txn) (s : State) : State := { txWrite t.req (rxFlush s) with txn := some { t with sent := true } }

/-- R100, R127: what an answer of `RxExact` means: a decoded value or the cause of the attempt's failure. -/
def judge (t : Txn) (r : Option (List Byte)) : Except Cause Half :=
  match r with
  | none => .error .timeout
  | some f => decodeResponse t.kind t.req f

/-- R32: the event that records an answer of `RxExact`. -/
def answerEvent (r : Option (List Byte)) : Event :=
  match r with
  | none => .timeout
  | some f => .rx f

/-- R100: `g.TXN <- none`. -/
def closeTxn (s : State) : State := { s with txn := none }

/-- R100: one attempt in the host context, up to its answer. -/
def attemptOnce (t : Txn) (s : State) : Except Cause Half × State :=
  let r := rxExact t.len (transmit t s)
  (judge t r.1, addEvent (answerEvent r.1) r.2)

/-- R100: the attempts of a transaction, at most `more` after this one. -/
def runAttempts : Nat → Txn → State → Except Cause Half × State
  | 0, t, s =>
    match attemptOnce t s with
    | (.ok v, s') => (.ok v, closeTxn s')
    | (.error c, s') => (.error c, closeTxn (recover t c s'))
  | more + 1, t, s =>
    match attemptOnce t s with
    | (.ok v, s') => (.ok v, closeTxn s')
    | (.error c, s') => runAttempts more { t with attempt := t.attempt + 1 } (recover t c s')

/-- R100: one bus transaction with at most `lim` attempts. -/
def runTxn (q : List Byte) (len lim : Nat) (k : RespKind) (s : State) : Except Cause Half × State :=
  runAttempts (lim - 1) (newTxn q len lim k) s

/-- R129: the bus error of a failed temperature read. A read's decoder answers no other cause (log 22). -/
def readError : Cause → ResultCode
  | .timeout => .busTimeout
  | .crcBad => .busChecksumMismatch
  | .echoBad => .busChecksumMismatch
  | .unusable => .busChecksumMismatch

/-- R102: what a finished read transaction means as a temperature. -/
def readResult (p : Params) : Except Cause Half → Except ResultCode F
  | .ok raw => .ok (temp p raw)
  | .error c => .error (readError c)

/-- R102 `read_temperature(a)`. -/
def readTemperature (a : Byte) (s : State) : Except ResultCode F × State :=
  let r := runTxn (req3 a s.par.regTemp) 7 s.par.attRead .resp3 s
  (readResult s.par r.1, r.2)

/-- R103 `discover_address()`. -/
def discoverAddress (s : State) : Except ResultCode Byte × State :=
  let r := runTxn (req3 s.par.bcast s.par.regAddr) 7 s.par.attDisc .disc s
  match r.1 with
  | .ok v => (.ok (lo v), r.2)
  | .error _ => (.error .busNoDevice, r.2)

/-- R104 `assign_address(w)`: discovery, then the write confirmed by its echo. -/
def assignAddress (w : Half) (s : State) : Except ResultCode Unit × State :=
  match discoverAddress s with
  | (.error _, s1) => (.error .busNoDevice, s1)
  | (.ok a, s1) =>
    let r := runTxn (req6 a w) 8 s1.par.attWrite .echo s1
    match r.1 with
    | .ok _ => (.ok (), r.2)
    | .error _ => (.error .busWriteUnconfirmed, r.2)

/-- 20_memory.md R64: the host context may use the transport: no loop runs and no engine exists. -/
def busAllowed (s : State) : Bool := (s.loop == .idle || s.loop == .terminated) && s.seq == .stopped

end Sys2Proof.Machine
end

