-- ==== Sys2Proof/Machine/Operands.lean ====
section
/-! DEFINITION. Operand assembly and operand legality, 30_encoding.md R71 and R73. -/

namespace Sys2Proof.Machine

/-- R71: an `F` operand as a value of `P_FMT`, converted exactly if representable, else rounded by `fl`. -/
def operandF (p : Params) (x : Pattern) : F := fConv p.fmt (fOfPattern x)

/-- R71, R73: an `F` operand is legal only if finite. -/
def legalF (p : Params) (x : Pattern) : Bool := fIsFinite (operandF p x)

/-- R71, R73: a channel operand is legal only below `P_N`. -/
def legalChan (n : Nat) (ch : Byte) : Bool := decide (ch.toNat < n)

/-- R73: an ENABLE flag is 0 or 1. -/
def legalFlag (b : Byte) : Bool := b == 0 || b == 1

/-- R73: a READ_TEMP address lies in `P_ADDR_MIN..P_ADDR_MAX`. -/
def legalAddr (p : Params) (a : Byte) : Bool := decide (p.addrMin ≤ a) && decide (a ≤ p.addrMax)

end Sys2Proof.Machine
end

