-- ==== Sys2Proof/Machine/BusCommands.lean ====
section
/-! DEFINITION. The meanings of the bus commands DISCOVER, ASSIGN and READ_TEMP (42_modbus.md R102-R104). The host context runs them
synchronously, without the lock (20_memory.md R60), and only while no loop owns the transport (R64). -/

namespace Sys2Proof.Machine

/-- DISCOVER (R103). -/
def execDiscover (s : State) : Host.Outcome State Fault Refusal :=
  if busAllowed s then
    .next (match discoverAddress s with
      | (.ok v, s') => respondOk [v] s'
      | (.error e, s') => raise e s')
  else .next (raise .wrongState s)

/-- ASSIGN w (R104). No channel is written, whatever the outcome. -/
def execAssign (w : Half) (s : State) : Host.Outcome State Fault Refusal :=
  if busAllowed s then
    .next (match assignAddress w s with
      | (.ok (), s') => respondOk [] s'
      | (.error e, s') => raise e s')
  else .next (raise .wrongState s)

/-- READ_TEMP b (R102). -/
def execReadTemp (b : Byte) (s : State) : Host.Outcome State Fault Refusal :=
  if legalAddr s.par b then
    if busAllowed s then
      .next (match readTemperature b s with
        | (.ok m, s') => respondOk (bytes32 (bits32 m)) s'
        | (.error e, s') => raise e s')
    else .next (raise .wrongState s)
  else .next (raise .badOperand s)

end Sys2Proof.Machine
end

