-- ==== Sys2Proof/Machine/Pid.lean ====
section
/-! DEFINITION. Stage ramp, PID engine, readiness and duty quantisation: 43_pid_stage.md R105-R110 and 45_dac.md R123. -/

namespace Sys2Proof.Machine

/-- The target of the channel's current stage. -/
def target (c : Channel) : F := stageOf c.stageT c.stage

/-- The next stage index, capped at 3 (R106, D43). -/
def nextStage (k : Fin 4) : Fin 4 :=
  match k with
  | 0 => 1
  | 1 => 2
  | 2 => 3
  | 3 => 3

/-- R106: the reading is within the tolerance of the stage target, inclusive. -/
def inTolerance (p : Params) (c : Channel) (x : F) : Bool := fLe (fAbs (fSub p.fmt x (target c))) p.stageTol

/-- R106: stage advancement. -/
def advance (p : Params) (mo : Option F) (now : Nat) (c : Channel) : Channel :=
  match mo with
  | some x =>
    if inTolerance p c x then
      match c.holdSince with
      | none => { c with holdSince := some now }
      | some t => if p.holdMs ≤ now - t then { c with stage := nextStage c.stage, holdSince := none } else c
    else { c with holdSince := none }
  | none => { c with holdSince := none }

/-- R107: the highest stage whose target is at most the reading; 0 if there is none (D16, D46). -/
def snapStage (q : Quad) (r : F) : Fin 4 :=
  if fLe q.q3 r then 3 else if fLe q.q2 r then 2 else if fLe q.q1 r then 1 else 0

/-- R107: stage snap. -/
def snap (c : Channel) : Channel :=
  match c.lastReading with
  | none => { c with stage := 0, holdSince := none }
  | some r => { c with stage := snapStage c.stageT r, holdSince := none }

/-- R108: clamp; a NaN goes to the lower bound. The rule is for `lo ≤ hi`; where a NaN or negative `P_ILIM` or `P_OUT_MAX` breaks that, the
pseudocode is followed all the same (DESIGN CHOICE, log 27). -/
def clamp (x lo hi : F) : F := if fIsNan x then lo else if fLt x lo then lo else if fLt hi x then hi else x

/-- R109: the integral after this cycle: zero inside the deadband, else accumulated and clamped. -/
def integral (p : Params) (iAcc e : F) : F :=
  if fLt (fAbs e) p.deadband then .zero else clamp (fAdd p.fmt iAcc e) (fNeg p.iLim) p.iLim

/-- R109: PID compute, giving the channel after it and the unrounded output. -/
def compute (p : Params) (mo : Option F) (c : Channel) : Channel × F :=
  match mo with
  | none => (c, .zero)
  | some x =>
    let e := fSub p.fmt (target c) x
    let i := integral p c.iAcc e
    let d := fSub p.fmt e c.prevErr
    let u := fAdd p.fmt (fAdd p.fmt (fMul p.fmt c.kp e) (fMul p.fmt c.ki i)) (fMul p.fmt c.kd d)
    ({ c with iAcc := i, prevErr := e }, clamp u .zero p.outMax)

/-- R110: one channel is within its readiness band, judged against its final setpoint. -/
def chanReady (p : Params) (c : Channel) : Bool :=
  match c.lastReading with
  | none => false
  | some r => fLe (fMul p.fmt p.readyLo c.sp) r && fLe r (fMul p.fmt p.readyHi c.sp)

/-- R110: every channel is ready. -/
def readiness (p : Params) (chs : List Channel) : Bool := chs.all (chanReady p)

/-- R123: the nearest integer, ties to even. The rule's operand lies in [0, 100] or is -0.0. Above 100, which only a `P_OUT_MAX`
above 100 lets through, the model rounds the same way (DESIGN CHOICE, log 25); for a NaN, an infinity or a negative value the result is
a free value (log 19). -/
def quant : F → Nat
  | .fin false m e => if 0 ≤ e then m * 2 ^ e.toNat else halfEven m (-e).toNat
  | .fin true m e => if m = 0 then 0 else Config.freeDuty (.fin true m e)
  | x => Config.freeDuty x

end Sys2Proof.Machine
end

