-- ==== Sys2Proof/Machine/Cycle.lean ====
section
/-! DEFINITION. The control cycle, 44_control.md R121 and R122, the engine exit R115, the cycle as the host context runs it in
caller mode (whole), and the background engine R120 with R101 (from one wait point to the next). -/

namespace Sys2Proof.Machine

/-- R115, R113: a channel's PID state and hold cleared. -/
def clearPid (c : Channel) : Channel := { c with holdSince := none, iAcc := .zero, prevErr := .zero }

/-- R115: one channel at the engine exit. -/
def exitChan (i : Nat) (s : State) : State := modChan i clearPid (setDuty i 0 s)

/-- R115: the engine exit with the lock held, and its release. -/
def engineExit (s : State) : State :=
  release { enterLoop .terminated (setReady false (forChans exitChan s)) with seq := .stopped }

/-- R114: a STOP inside its grace wait is answered OK once the engine has stopped. -/
def answerStop (s : State) : State := if s.stopWait then respondOk [] { s with stopWait := false } else s

/-- R122, enabled, from the reading on: `Now()`, advance, compute, quantise; then the duty. -/
def actuate (k : Nat) (s : State) : State :=
  match s.ch[k]? with
  | none => s
  | some c =>
    let n := readNow s
    let r := compute s.par c.lastReading (advance s.par c.lastReading n.1 c)
    setDuty k (quant r.2) (modChan k (fun _ => r.1) n.2)

/-- R122: the reading of this cycle is recorded; a bus error leaves none, and a record. -/
def storeReading (k : Nat) (res : Except ResultCode F) (s : State) : State :=
  match res with
  | .ok m => modChan k (fun c => { c with lastReading := some m }) s
  | .error e => logRecord (.noReading k e) (modChan k (fun c => { c with lastReading := none }) s)

/-- R122 after `read_temperature`. -/
def chanDone (k : Nat) (en : Bool) (res : Except ResultCode F) (s : State) : State :=
  if en then actuate k (storeReading k res s) else setDuty k 0 (storeReading k res s)

/-- R121 after the last channel: readiness, `SetReady`, the sequencer, the release. -/
def finishCycle (next : Seq) (s : State) : State :=
  release { setReady (s.loop == .runEn && readiness s.par s.ch) s with seq := next }

/-- R121, R122: one channel of a cycle in caller mode. -/
def callerChan (en : Bool) (k : Nat) (s : State) : State :=
  match s.ch[k]? with
  | none => s
  | some c =>
    let r := readTemperature c.addr { s with seq := .cycle k }
    chanDone k en r.1 r.2

/-- R121 in caller mode, lock owner HOST: one whole cycle. -/
def callerCycle (s : State) : State :=
  finishCycle .stopped { forChans (callerChan (s.loop == .runEn)) (acquire .host s) with seq := .finish }

/-- R121: the sequencer at channel `k`, or past the last channel. -/
def enterChan (k : Nat) (s : State) : State :=
  { s with seq := if k < s.chanCount then .cycle k else .finish }

/-- R120 at the top of a cycle, reached when the next cycle start time has come: exit if STOP was asked, else take the lock
and enter the cycle. While the lock is held elsewhere the engine stays where it is (R59). -/
def engineTop (s : State) : State :=
  if s.lock = .free then
    (if s.running then enterChan 0 (acquire .engine s) else answerStop (engineExit (acquire .engine s)))
  else s

/-- R120: the engine looks at `g.RUNNING` while it waits between cycles; it exits at once if STOP was asked. -/
def enginePollWait (s : State) : State :=
  if s.lock = .free ∧ s.running = false then answerStop (engineExit (acquire .engine s)) else s

/-- R101, R121: STOP is observed at the response wait: no frame, no transport reset, no record; the engine exits. -/
def cancel (s : State) : State := answerStop (engineExit (closeTxn s))

/-- R101: the wait is one that STOP cancels: a transaction inside a cycle of the background engine, STOP asked. -/
def cancelled (s : State) : Bool :=
  s.mode == .background && !s.running && (match s.seq with | .cycle _ => true | _ => false)

/-- R121: the engine starts the temperature read of channel `k` (R102), its request still to be transmitted. -/
def startRead (k : Nat) (s : State) : State :=
  match s.ch[k]? with
  | none => { s with seq := .finish }
  | some c => { s with txn := some (newTxn (req3 c.addr s.par.regTemp) 7 s.par.attRead .resp3) }

/-- R122, R121: the finished transaction of a cycle's channel, then the next channel or the end. A transaction outside a cycle has no
operation left to go on with (log 9). -/
def afterRead (res : Except Cause Half) (s : State) : State :=
  match s.seq with
  | .cycle k => enterChan (k + 1) (chanDone k (s.loop == .runEn) (readResult s.par res) s)
  | _ => s

/-- R100 from the answer of `RxExact` on, outside the host context: done, failed for good, or the next attempt to transmit. -/
def onAnswer (t : Txn) (r : Option (List Byte)) (s : State) : State :=
  match judge t r with
  | .ok v => afterRead (.ok v) (closeTxn (addEvent (answerEvent r) s))
  | .error c =>
    let s' := recover t c (addEvent (answerEvent r) s)
    if t.lim ≤ t.attempt then afterRead (.error c) (closeTxn s')
    else { s' with txn := some { t with attempt := t.attempt + 1, sent := false } }

/-- A frame of `f.length` bytes is accepted (R82, R83) if a response of that length is awaited; otherwise its bytes are received and not
read (R30). -/
def acceptFrame (f : List Byte) (s : State) : State :=
  match s.txn with
  | some t => if t.sent ∧ t.len = f.length then onAnswer t (some f) s else { s with rxbuf := s.rxbuf ++ f }
  | none => { s with rxbuf := s.rxbuf ++ f }

/-- A request frame is emitted (R80, R81): R100's `RxFlush; TxWrite`. A transaction whose request it is goes on with its attempt; else
`t` opens one at its first attempt (log 9). -/
def emitRequest (t : Txn) (s : State) : State :=
  match s.txn with
  | some t' => if t'.req = t.req then transmit t' s else transmit t s
  | none => transmit t s

end Sys2Proof.Machine
end

