-- ==== Sys2Proof/Machine/Control.lean ====
section
/-! DEFINITION. The meanings of the control, configuration and status commands: START, STOP, ENABLE, STEP, SET_GAINS,
SET_SETPOINT, STATUS (44_control.md R112-R119). Reserved operand values are refused first (30_encoding.md R74), then the
lock is taken (20_memory.md R59), then the state is checked (60_exceptions.md R131). -/

namespace Sys2Proof.Machine

/-- R59: the command `i` runs `body` with the lock held by HOST for its whole execution; while the lock is not free it
waits its turn (R63). -/
def withLock (i : Instr) (body : State → State) (s : State) : Host.Outcome State Fault Refusal :=
  if s.lock = .free then .next (release (body (acquire .host s))) else .next { s with waiting := s.waiting ++ [.cmd i] }

/-- R112, with the lock held. -/
def startBody (s : State) : State :=
  if s.loop = .idle then
    let r := drawSpawn { enterLoop .runDis s with running := true }
    respondOk [] (if r.1 then { r.2 with mode := .background, seq := .wait } else { r.2 with mode := .caller, seq := .stopped })
  else raise .wrongState s

/-- START (R112). -/
def execStart (s : State) : Host.Outcome State Fault Refusal := withLock .start startBody s

/-- R114, in caller mode, after the check and the write of `g.RUNNING`: the engine exit in the host context and the answer. -/
def callerExit (s : State) : State := respondOk [] (engineExit (acquire .host s))

/-- STOP (R114). It takes no lock for its check and its write (R60). In caller mode it exits the engine, for which it needs the
lock (log 17); in background mode it waits for the engine, at most the grace period. -/
def execStop (s : State) : Host.Outcome State Fault Refusal :=
  if loopRuns s ∧ s.running = true then
    if s.mode = .caller then
      if s.lock = .free then .next (callerExit { s with running := false })
      else .next { s with running := false, waiting := s.waiting ++ [.callerExit] }
    else if s.seq = .stopped then .next (respondOk [] { s with running := false })
    else .next { s with running := false, stopWait := true }
  else .next (raise .wrongState s)

/-- R113: one channel when control is enabled. -/
def enableChan (c : Channel) : Channel := { snap c with iAcc := .zero, prevErr := .zero }

/-- R113: one channel when control is disabled. -/
def disableChan (i : Nat) (s : State) : State := setDuty i 0 (modChan i clearPid s)

/-- R113, with the lock held. Enabling when enabled and disabling when disabled change nothing (D17). -/
def enableBody (b : Byte) (s : State) : State :=
  if loopRuns s ∧ s.running = true then
    respondOk []
      (if b = 1 ∧ s.loop = .runDis then enterLoop .runEn { s with ch := s.ch.map enableChan }
       else if b = 0 ∧ s.loop = .runEn then enterLoop .runDis (setReady false (forChans disableChan s))
       else s)
  else raise .wrongState s

/-- ENABLE b (R113). -/
def execEnable (b : Byte) (s : State) : Host.Outcome State Fault Refusal :=
  if legalFlag b then withLock (.enable b) (enableBody b) s else .next (raise .badOperand s)

/-- STEP (R116): one whole cycle in the host context (D50). -/
def execStepCycle (s : State) : Host.Outcome State Fault Refusal :=
  if s.mode = .caller ∧ loopRuns s ∧ s.running = true then
    if s.lock = .free then .next (respondOk [] (callerCycle s))
    else .next { s with waiting := s.waiting ++ [.cmd .stepCycle] }
  else .next (raise .wrongState s)

/-- R117, with the lock held. -/
def gainsBody (ch : Byte) (kp ki kd : Pattern) (s : State) : State :=
  respondOk []
    (modChan ch.toNat (fun c => { c with kp := operandF s.par kp, ki := operandF s.par ki, kd := operandF s.par kd }) s)

/-- SET_GAINS ch, kp, ki, kd (R117). -/
def execSetGains (ch : Byte) (kp ki kd : Pattern) (s : State) : Host.Outcome State Fault Refusal :=
  if legalChan s.chanCount ch ∧ legalF s.par kp ∧ legalF s.par ki ∧ legalF s.par kd then
    withLock (.setGains ch kp ki kd) (gainsBody ch kp ki kd) s
  else .next (raise .badOperand s)

/-- R118, with the lock held. -/
def setpointBody (ch : Byte) (x : Pattern) (s : State) : State :=
  respondOk []
    (modChan ch.toNat
      (fun c => { c with sp := operandF s.par x, stageT := targetsOf s.par (operandF s.par x), holdSince := none }) s)

/-- SET_SETPOINT ch, x (R118). -/
def execSetSetpoint (ch : Byte) (x : Pattern) (s : State) : Host.Outcome State Fault Refusal :=
  if legalChan s.chanCount ch ∧ legalF s.par x then withLock (.setSetpoint ch x) (setpointBody ch x) s
  else .next (raise .badOperand s)

/-- STATUS (R119, R75). -/
def execStatus (s : State) : Host.Outcome State Fault Refusal := withLock .status (fun t => respondOk (statusData t) t) s

end Sys2Proof.Machine
end

