-- ==== Sys2Proof/Machine/CrcCommands.lean ====
section
/-! DEFINITION. The meanings of the host CRC commands (41_crc.md R91-R93). They take no lock and are legal in every state. -/

namespace Sys2Proof.Machine

/-- CRC_INIT (R91). -/
def execCrcInit (s : State) : Host.Outcome State Fault Refusal :=
  .next (respondOk [] { s with crcHost := Config.crcSeed })

/-- CRC_FEED b (R92). -/
def execCrcFeed (b : Byte) (s : State) : Host.Outcome State Fault Refusal :=
  .next (respondOk [] { s with crcHost := crcByte s.crcHost b })

/-- CRC_READ (R93): high byte first, the accumulator unchanged. -/
def execCrcRead (s : State) : Host.Outcome State Fault Refusal :=
  .next (respondOk [hi s.crcHost, lo s.crcHost] s)

end Sys2Proof.Machine
end

