-- ==== Sys2Proof/Decode.lean ====
section
/-! DEFINITION. Decoding, total on any bytes and rejecting by name (30_encoding.md R70-R74, R80-R84), then the encoder from the
same tables, and the host's reading of a table word. -/

namespace Sys2Proof

open Machine

/-- Why bytes are no instruction. -/
inductive DecodeError where
  /-- R74: an empty message (answered BAD_LENGTH) -/
  | emptyMessage
  /-- R73: a reserved opcode (answered ILLEGAL_COMMAND) -/
  | reservedOpcode
  /-- R74: a defined opcode with a length not its format's (answered BAD_LENGTH) -/
  | wrongLength
  /-- a frame whose length is not its kind's (R80-R83) -/
  | frameLength
  /-- eight bytes that are no request the block emits (R84) -/
  | notARequest
deriving DecidableEq, Repr

/-- R70, R72: the message length of a defined opcode; none for a reserved one (R73). -/
def formatLength (op : Byte) : Option Nat :=
  match op.toNat with
  | 0x01 => some 1
  | 0x02 => some 1
  | 0x03 => some 2
  | 0x04 => some 1
  | 0x05 => some 14
  | 0x06 => some 6
  | 0x07 => some 1
  | 0x08 => some 1
  | 0x09 => some 3
  | 0x0A => some 2
  | 0x10 => some 1
  | 0x11 => some 2
  | 0x12 => some 1
  | _ => none

/-- R71, R72: the command of an opcode with operand bytes of its format's length. -/
def assemble (op : Byte) (args : List Byte) : Option Instr :=
  match op.toNat, args with
  | 0x01, [] => some .start
  | 0x02, [] => some .stop
  | 0x03, [b] => some (.enable b)
  | 0x04, [] => some .stepCycle
  | 0x05, [ch, p3, p2, p1, p0, i3, i2, i1, i0, d3, d2, d1, d0] =>
    some (.setGains ch (be32 p3 p2 p1 p0) (be32 i3 i2 i1 i0) (be32 d3 d2 d1 d0))
  | 0x06, [ch, x3, x2, x1, x0] => some (.setSetpoint ch (be32 x3 x2 x1 x0))
  | 0x07, [] => some .status
  | 0x08, [] => some .discover
  | 0x09, [h, l] => some (.assign (be16 h l))
  | 0x0A, [b] => some (.readTemp b)
  | 0x10, [] => some .crcInit
  | 0x11, [b] => some (.crcFeed b)
  | 0x12, [] => some .crcRead
  | _, _ => none

/-- R74: one host message. The opcode is checked before the length; reserved operand values are the command's own check. -/
def decodeHost : List Byte → Except DecodeError Instr
  | [] => .error .emptyMessage
  | op :: args =>
    match formatLength op with
    | none => .error .reservedOpcode
    | some _ =>
      match assemble op args with
      | some i => .ok i
      | none => .error .wrongLength

/-- R80, R81: a frame the block emits, recognised by its function code, its fixed bytes and its CRC. -/
def decodeRequest (f : List Byte) : Except DecodeError Instr :=
  match f with
  | [a, fn, b2, b3, b4, b5, _, _] =>
    if crcOk f && fn == 0x03 && b4 == 0x00 && b5 == 0x01 then .ok (.mbReq3 a (be16 b2 b3))
    else if crcOk f && fn == 0x06 && b2 == 0x00 && b3 == 0x02 then .ok (.mbReq6 a (be16 b4 b5))
    else .error .notARequest
  | _ => .error .frameLength

/-- R82: any seven bytes received for a function-3 request. -/
def decodeResp3 : List Byte → Except DecodeError Instr
  | [a, fn, n, dh, dl, cl, ch] => .ok (.mbResp3 a fn n (be16 dh dl) (be16 ch cl))
  | _ => .error .frameLength

/-- R83: any eight bytes received for a function-6 request. -/
def decodeResp6 : List Byte → Except DecodeError Instr
  | [a, fn, rh, rl, dh, dl, cl, ch] => .ok (.mbResp6 a fn (be16 rh rl) (be16 dh dl) (be16 ch cl))
  | _ => .error .frameLength

/-- The decoder of the block: bytes read at an interface. -/
def decode : Port → List Byte → Except DecodeError Instr
  | .host, m => decodeHost m
  | .tx, f => decodeRequest f
  | .rx3, f => decodeResp3 f
  | .rx6, f => decodeResp6 f

/-- The bytes of a response to a function-3 request, in wire order (R82). -/
def resp3Bytes (a fn n : Byte) (data crc : Half) : List Byte := [a, fn, n, hi data, lo data, lo crc, hi crc]

/-- The bytes of a response to a function-6 request, in wire order (R83). -/
def resp6Bytes (a fn : Byte) (reg data crc : Half) : List Byte :=
  [a, fn, hi reg, lo reg, hi data, lo data, lo crc, hi crc]

/-- The encoder (R70, R72, R80-R83). -/
def encode : Instr → List Byte
  | .start => [0x01]
  | .stop => [0x02]
  | .enable b => [0x03, b]
  | .stepCycle => [0x04]
  | .setGains ch kp ki kd => [0x05, ch] ++ bytes32 kp ++ bytes32 ki ++ bytes32 kd
  | .setSetpoint ch x => [0x06, ch] ++ bytes32 x
  | .status => [0x07]
  | .discover => [0x08]
  | .assign w => [0x09, hi w, lo w]
  | .readTemp b => [0x0A, b]
  | .crcInit => [0x10]
  | .crcFeed b => [0x11, b]
  | .crcRead => [0x12]
  | .mbReq3 a r => req3 a r
  | .mbReq6 a w => req6 a w
  | .mbResp3 a fn n data crc => resp3Bytes a fn n data crc
  | .mbResp6 a fn reg data crc => resp6Bytes a fn reg data crc

/-- The low `n` bytes of a table word, the first byte of the message or frame its least significant. -/
def wordBytes (w n : Nat) : List Byte := (List.range n).map fun j => BitVec.ofNat 8 (w / 2 ^ (8 * j))

/-- The interface and the bytes that a table word of `nbits` bits stands for (log 10). A host message is padded with zeros to its
format's length. 56 bits are a function-3 response. 64 bits are a request if they are one, else a function-6 response; a
64-bit word with nothing above its low byte 3 or 6 gives only the table's match (the function code, byte 1) and stands for
that request with its other operands zero. -/
def tableFrame (nbits w : Nat) : Port × List Byte :=
  if nbits = 56 then (.rx3, wordBytes w 7)
  else if nbits = 64 then
    if w = 0x03 then (.tx, req3 0 0)
    else if w = 0x06 then (.tx, req6 0 0)
    else
      match decodeRequest (wordBytes w 8) with
      | .ok _ => (.tx, wordBytes w 8)
      | .error _ => (.rx6, wordBytes w 8)
  else
    (.host, wordBytes w (max ((formatLength (BitVec.ofNat 8 w)).getD 0) (nbits / 8)))

/-- The instruction the decoder reads from a table word. -/
def decodeTableWord (nbits w : Nat) : Option Instr :=
  match decode (tableFrame nbits w).1 (tableFrame nbits w).2 with
  | .ok i => some i
  | .error _ => none

end Sys2Proof
end

