-- ==== Sys2Proof/Machine/FrameSteps.lean ====
section
/-! DEFINITION. The meanings of the four frames (30_encoding.md R80-R83): emitting a request is R100's `RxFlush; TxWrite`, accepting a
response is the answer of `RxExact`, its decoder and what follows (42_modbus.md R95-R101). -/

namespace Sys2Proof.Machine

/-- The transaction a function-3 request opens: discovery's for the broadcast read of the address register (R103), else a
read's (R102). -/
def request3Txn (p : Params) (a : Byte) (r : Half) : Txn :=
  if a = p.bcast ∧ r = p.regAddr then newTxn (req3 a r) 7 p.attDisc .disc else newTxn (req3 a r) 7 p.attRead .resp3

/-- MB_REQ3 (R80, R95). -/
def execMbReq3 (a : Byte) (r : Half) (s : State) : Host.Outcome State Fault Refusal :=
  .next (emitRequest (request3Txn s.par a r) s)

/-- MB_REQ6 (R81, R96): the write phase of an assignment (R104). -/
def execMbReq6 (a : Byte) (w : Half) (s : State) : Host.Outcome State Fault Refusal :=
  .next (emitRequest (newTxn (req6 a w) 8 s.par.attWrite .echo) s)

/-- MB_RESP3 (R82, R97). -/
def execMbResp3 (a fn n : Byte) (data crc : Half) (s : State) : Host.Outcome State Fault Refusal :=
  .next (acceptFrame (resp3Bytes a fn n data crc) s)

/-- MB_RESP6 (R83, R98). -/
def execMbResp6 (a fn : Byte) (reg data crc : Half) (s : State) : Host.Outcome State Fault Refusal :=
  .next (acceptFrame (resp6Bytes a fn reg data crc) s)

end Sys2Proof.Machine
end

