-- ==== Sys2Proof/Machine/Dispatch.lean ====
section
/-! DEFINITION. One arm per instruction. -/

namespace Sys2Proof.Machine

def exec (i : Instr) (s : State) : Host.Outcome State Fault Refusal :=
  match i with
  | .start => Sys2Proof.Machine.execStart s
  | .stop => Sys2Proof.Machine.execStop s
  | .enable b => Sys2Proof.Machine.execEnable b s
  | .stepCycle => Sys2Proof.Machine.execStepCycle s
  | .setGains ch kp ki kd => Sys2Proof.Machine.execSetGains ch kp ki kd s
  | .setSetpoint ch x => Sys2Proof.Machine.execSetSetpoint ch x s
  | .status => Sys2Proof.Machine.execStatus s
  | .discover => Sys2Proof.Machine.execDiscover s
  | .assign w => Sys2Proof.Machine.execAssign w s
  | .readTemp b => Sys2Proof.Machine.execReadTemp b s
  | .crcInit => Sys2Proof.Machine.execCrcInit s
  | .crcFeed b => Sys2Proof.Machine.execCrcFeed b s
  | .crcRead => Sys2Proof.Machine.execCrcRead s
  | .mbReq3 a r => Sys2Proof.Machine.execMbReq3 a r s
  | .mbReq6 a w => Sys2Proof.Machine.execMbReq6 a w s
  | .mbResp3 a fn n data crc => Sys2Proof.Machine.execMbResp3 a fn n data crc s
  | .mbResp6 a fn reg data crc => Sys2Proof.Machine.execMbResp6 a fn reg data crc s

end Sys2Proof.Machine
end

