-- ==== Sys2Proof/Machine/Fetch.lean ====
section
/-! DEFINITION. What the next step of the block is, and where its instruction is fetched (30_encoding.md R74; 42_modbus.md R100; 44_control.md
R120; 20_memory.md R63). Step.lean runs what this file chooses. -/

namespace Sys2Proof.Machine

/-- What the next step does: run an instruction in a state, resume host work that got the lock, or go on to a state. -/
inductive Move where
  | run (i : Instr) (s : State)
  | resume (w : Pending) (s : State)
  | goOn (s : State)
deriving DecidableEq, Repr

/-- R74: the answer to a message that is no command; nothing else changes. -/
def refuseMessage (e : DecodeError) (s : State) : State :=
  match e with
  | .reservedOpcode => raise .illegalCommand s
  | _ => raise .badLength s

/-- R74: a host message is decoded, then run. -/
def fetchMessage (m : List Byte) (s : State) : Move :=
  match decode .host m with
  | .ok i => .run i s
  | .error e => .goOn (refuseMessage e s)

/-- R84: the kind of a received frame comes from the length the outstanding request awaits. -/
def rxPort (len : Nat) : Port := if len = 8 then .rx6 else .rx3

/-- R100: enough bytes of the awaited response have arrived: the frame is taken from the buffer and accepted. -/
def fetchFrame (t : Txn) (s : State) : Move :=
  match takeRx t.len s with
  | (none, s') => .goOn s'
  | (some f, s') =>
    match decode (rxPort t.len) f with
    | .ok i => .run i s'
    | .error _ => .goOn (acceptFrame f s')

/-- R30, R100: bytes arrive; at a response wait the frame is accepted once it is complete. They do not make the engine look at
`g.RUNNING`: a response that completes before the engine reads 0 is accepted (R101, log 6). -/
def fetchBus (bs : List Byte) (s : State) : Move :=
  let s' := { s with rxbuf := s.rxbuf ++ bs }
  match s.txn with
  | none => .goOn s'
  | some t => fetchFrame t s'

/-- R100, R101: the response wait has lasted `P_TIMEOUT_MS`. -/
def waitTimeout (s : State) : State :=
  match s.txn with
  | none => s
  | some t => if cancelled s then cancel s else onAnswer t none s

/-- R101, R120: the engine looks at `g.RUNNING` at the wait point it is at. -/
def pollRunning (s : State) : State :=
  match s.txn, s.seq with
  | some _, _ => if cancelled s then cancel s else s
  | none, .wait => enginePollWait s
  | none, _ => s

/-- R114: STOP's grace period is over: answered if the engine still exists; it will exit later all the same. -/
def graceExpired (s : State) : State := if s.stopWait then raise .stopGraceExpired { s with stopWait := false } else s

/-- The next input, taken from the inbox; with none, every context waits. -/
def fetchInput (s : State) : Move :=
  match s.inbox with
  | [] => .goOn s
  | .host m :: rest => fetchMessage m { s with inbox := rest }
  | .bus bs :: rest => fetchBus bs { s with inbox := rest }
  | .timeout :: rest => .goOn (waitTimeout { s with inbox := rest })
  | .cycleStart :: rest =>
    .goOn (if s.seq = .wait then engineTop { s with inbox := rest } else { s with inbox := rest })
  | .poll :: rest => .goOn (pollRunning { s with inbox := rest })
  | .graceOver :: rest => .goOn (graceExpired { s with inbox := rest })

/-- A request to transmit: its bytes are fetched as the frame they are. On entering the response wait the engine reads `g.RUNNING`: if
STOP has been asked, the wait ends as it begins (R100, R101; log 6). -/
def fetchRequest (t : Txn) (s : State) : Move :=
  if cancelled s then .goOn (cancel (transmit t s))
  else
    match decode .tx t.req with
    | .ok i => .run i s
    | .error _ => .goOn (transmit t s)

/-- What the engine does when it is not at a wait point: transmit a request, start a channel, finish the cycle; else the next input. -/
def fetchEngine (s : State) : Move :=
  match s.txn, s.seq with
  | some t, _ => if t.sent then fetchInput s else fetchRequest t s
  | none, .cycle k => .goOn (startRead k s)
  | none, .finish => .goOn (finishCycle .wait s)
  | none, _ => fetchInput s

/-- The next move. Host work waiting for the lock runs as soon as the lock is free, in arrival order, before anything else (R63). -/
def nextMove (s : State) : Move :=
  match s.waiting with
  | w :: rest => if s.lock = .free then .resume w { s with waiting := rest } else fetchEngine s
  | [] => fetchEngine s

/-- Put the bytes of an instruction where the next step fetches it: a message at the head of the inbox; a request as the one
to transmit; a response as bytes arriving for a transmitted request of its function (log 11). -/
def placeFrame (port : Port) (bs : List Byte) (s : State) : State :=
  match port with
  | .host => { s with inbox := .host bs :: s.inbox }
  | .tx =>
    { s with txn := some (match decode .tx bs with
        | .ok (.mbReq3 a r) => request3Txn s.par a r
        | _ => newTxn bs 8 s.par.attWrite .echo) }
  | .rx3 =>
    { s with
      txn := some { newTxn (req3 (bs.headD 0) s.par.regTemp) 7 s.par.attRead .resp3 with sent := true }
      inbox := .bus bs :: s.inbox }
  | .rx6 =>
    { s with
      txn := some { newTxn (req6 (bs.headD 0) (be16 (bs.getD 4 0) (bs.getD 5 0))) 8 s.par.attWrite .echo with sent := true }
      inbox := .bus bs :: s.inbox }

end Sys2Proof.Machine
end

