-- ==== Sys2Proof/Machine/Step.lean ====
section
/-! DEFINITION. One step of the block: the move that Fetch.lean chooses, its instruction run by `exec`. -/

namespace Sys2Proof.Machine

/-- Run a move. -/
def runMove : Move → Host.Outcome State Fault Refusal
  | .run i s => exec i s
  | .resume (.cmd i) s => exec i s
  | .resume .callerExit s => .next (callerExit s)
  | .goOn s => .next s

/-- One step. -/
def step (s : State) : Host.Outcome State Fault Refusal := runMove (nextMove s)

/-- The instruction of a table word, stored where the next step fetches (log 10, log 11). -/
def State.withFetchWord (s : State) (nbits w : Nat) : State :=
  placeFrame (tableFrame nbits w).1 (tableFrame nbits w).2 s

end Sys2Proof.Machine
end

