-- ==== Sys2Proof/Machine/Asm.lean ====
section
/-! DEFINITION. The textual form of commands and the pseudo-commands' expansions (30_encoding.md R77, R78). Text is a list of
characters. -/

namespace Sys2Proof.Machine

/-- The pseudo-commands of R78. -/
inductive Pseudo where
  | crc16 (bs : List Byte)
  | disable
  | setChannel (ch : Byte) (kp ki kd x : Pattern)
deriving DecidableEq, Repr

/-- R78: the commands a pseudo-command stands for, in order. -/
def expand : Pseudo → List Instr
  | .crc16 bs => [.crcInit] ++ bs.map .crcFeed ++ [.crcRead]
  | .disable => [.enable 0]
  | .setChannel ch kp ki kd x => [.setGains ch kp ki kd, .setSetpoint ch x]

/-- A written operand (R77): an integer, or a decimal literal with its sign, its digits and how many stand after the point. -/
inductive AsmArg where
  | int (v : Nat)
  | dec (neg : Bool) (digits scale : Nat)
deriving DecidableEq, Repr

/-- The value of a digit in a base up to 16. -/
def digitVal (c : Char) : Option Nat :=
  if '0' ≤ c ∧ c ≤ '9' then some (c.toNat - '0'.toNat)
  else if 'a' ≤ c ∧ c ≤ 'f' then some (c.toNat - 'a'.toNat + 10)
  else if 'A' ≤ c ∧ c ≤ 'F' then some (c.toNat - 'A'.toNat + 10)
  else none

/-- Digits read in a base, most significant first. -/
def digits (base : Nat) : Nat → List Char → Option Nat
  | acc, [] => some acc
  | acc, c :: cs =>
    match digitVal c with
    | some d => if d < base then digits base (acc * base + d) cs else none
    | none => none

/-- R77: one operand: decimal, 0x hexadecimal, or a decimal literal. -/
def parseArg (t : List Char) : Option AsmArg :=
  match t with
  | [] => none
  | '0' :: 'x' :: h => if h = [] then none else (digits 16 0 h).map .int
  | '-' :: u =>
    let whole := u.takeWhile (· != '.')
    let frac := (u.dropWhile (· != '.')).drop 1
    if whole = [] then none else (digits 10 0 (whole ++ frac)).map fun n => .dec true n frac.length
  | u =>
    let whole := u.takeWhile (· != '.')
    let frac := (u.dropWhile (· != '.')).drop 1
    if whole = [] then none
    else if u.contains '.' then (digits 10 0 (whole ++ frac)).map fun n => .dec false n frac.length
    else (digits 10 0 u).map .int

/-- Spaces at both ends removed. -/
def trim (t : List Char) : List Char := ((t.dropWhile (· == ' ')).reverse.dropWhile (· == ' ')).reverse

/-- A text cut at commas. -/
def splitCommas : List Char → List (List Char)
  | [] => [[]]
  | c :: cs =>
    if c = ',' then [] :: splitCommas cs
    else
      match splitCommas cs with
      | w :: ws => (c :: w) :: ws
      | [] => [[c]]

/-- A `u8` operand. -/
def argByte : AsmArg → Option Byte
  | .int v => if v < 256 then some (BitVec.ofNat 8 v) else none
  | .dec _ _ _ => none

/-- A `u16` operand. -/
def argHalf : AsmArg → Option Half
  | .int v => if v < 65536 then some (BitVec.ofNat 16 v) else none
  | .dec _ _ _ => none

/-- An `F` operand: `fl` of its value (R77), as it travels. -/
def argPattern : AsmArg → Option Pattern
  | .int v => fPattern? (fLit Fmt.binary32 false v 0)
  | .dec neg n d => fPattern? (fLit Fmt.binary32 neg n d)

/-- R77, R78: the commands of a name with its operands. -/
def assembleLine (name : List Char) (args : List AsmArg) : Option (List Instr) :=
  match String.ofList name, args with
  | "START", [] => some [.start]
  | "STOP", [] => some [.stop]
  | "ENABLE", [b] => (argByte b).map fun v => [.enable v]
  | "STEP", [] => some [.stepCycle]
  | "SET_GAINS", [c, p, i, d] =>
    match argByte c, argPattern p, argPattern i, argPattern d with
    | some c, some p, some i, some d => some [.setGains c p i d]
    | _, _, _, _ => none
  | "SET_SETPOINT", [c, x] =>
    match argByte c, argPattern x with
    | some c, some x => some [.setSetpoint c x]
    | _, _ => none
  | "STATUS", [] => some [.status]
  | "DISCOVER", [] => some [.discover]
  | "ASSIGN", [w] => (argHalf w).map fun v => [.assign v]
  | "READ_TEMP", [b] => (argByte b).map fun v => [.readTemp v]
  | "CRC_INIT", [] => some [.crcInit]
  | "CRC_FEED", [b] => (argByte b).map fun v => [.crcFeed v]
  | "CRC_READ", [] => some [.crcRead]
  | "CRC16", bs => (bs.mapM argByte).map fun vs => expand (.crc16 vs)
  | "DISABLE", [] => some (expand .disable)
  | "SET_CHANNEL", [c, p, i, d, x] =>
    match argByte c, argPattern p, argPattern i, argPattern d, argPattern x with
    | some c, some p, some i, some d, some x => some (expand (.setChannel c p i d x))
    | _, _, _, _, _ => none
  | _, _ => none

/-- R77: one line of a program; an empty line or a comment is no command. -/
def parseLine (t : List Char) : Option (List Instr) :=
  let u := trim (t.takeWhile (· != ';'))
  let name := u.takeWhile (· != ' ')
  let rest := trim (u.drop name.length)
  if u = [] then some []
  else if rest = [] then assembleLine name []
  else ((splitCommas rest).mapM fun a => parseArg (trim a)).bind (assembleLine name)

end Sys2Proof.Machine
end

