-- ==== Sys2Proof/WellFormed.lean ====
section
/-! DEFINITION. Well-formed instructions: no operand holds a reserved value (30_encoding.md R73), and a function-3 request names
one of the two registers the block reads (20_memory.md R49). An ill-formed host command is still executed: it answers
BAD_OPERAND. -/

namespace Sys2Proof

/-- Well-formed under parameters `p` with `n` channels. -/
def Instr.wellFormed (p : Params) (n : Nat) : Instr → Bool
  | .start => true
  | .stop => true
  | .enable b => Machine.legalFlag b
  | .stepCycle => true
  | .setGains ch kp ki kd => Machine.legalChan n ch && Machine.legalF p kp && Machine.legalF p ki && Machine.legalF p kd
  | .setSetpoint ch x => Machine.legalChan n ch && Machine.legalF p x
  | .status => true
  | .discover => true
  | .assign _ => true
  | .readTemp b => Machine.legalAddr p b
  | .crcInit => true
  | .crcFeed _ => true
  | .crcRead => true
  | .mbReq3 _ reg => reg == p.regTemp || reg == p.regAddr
  | .mbReq6 _ _ => true
  | .mbResp3 _ _ _ _ _ => true
  | .mbResp6 _ _ _ _ _ => true

end Sys2Proof
end

