-- ==== Sys2Proof/Safety.lean ====
section
/-! DEFINITION. What the claims about the block speak in: its invariants (10_state.md R45 and what the rules of the lock, the
sequencer and the transaction engine keep), and small readings of an outcome, a cycle and an event history. -/

namespace Sys2Proof.Machine

/-- R45 items 4, 5 and 6, R22: the enabled flag is RUN_EN; outside RUN_EN the ready output is 0 and no hold runs; the stage
targets are those of the setpoint. -/
def controlInv (s : State) : Prop :=
  s.enabled = (s.loop == .runEn) ∧
  (s.loop ≠ .runEn → s.readyOut = false ∧ ∀ c ∈ s.ch, c.holdSince = none) ∧
  ∀ c ∈ s.ch, c.stageT = targetsOf s.par c.sp

/-- R45 items 2 and 3, R36, R37, under R9's defaults and any values of the open parameters: gains and setpoints finite, the integral
within its bounds, the previous error not a NaN, readings finite, duties at most 100. -/
def numericInv (s : State) : Prop :=
  (∃ o, s.par = Params.defaultWith o) ∧
  ∀ c ∈ s.ch,
    fIsFinite c.kp = true ∧ fIsFinite c.ki = true ∧ fIsFinite c.kd = true ∧ fIsFinite c.sp = true ∧
    c.stageT = targetsOf Params.default c.sp ∧
    fLe (fNeg Params.default.iLim) c.iAcc = true ∧ fLe c.iAcc Params.default.iLim = true ∧
    fIsNan c.prevErr = false ∧ (∀ m, c.lastReading = some m → fIsFinite m = true) ∧ c.dutyOut ≤ 100

/-- The engine is inside a cycle (R28). -/
def inCycle : Seq → Bool
  | .cycle _ => true
  | .finish => true
  | _ => false

/-- The commands of 20_memory.md R59 that hold the lock for their whole execution. -/
def takesLock : Instr → Bool
  | .start => true
  | .enable _ => true
  | .setGains _ _ _ _ => true
  | .setSetpoint _ _ => true
  | .status => true
  | _ => false

/-- Between steps: the lock is held exactly by an engine inside a cycle (R59); a transaction exists only there and is the read of
the channel at hand (R31, R102); an engine exists exactly in background mode while the loop runs (R139); `g.RUNNING` only while
the loop runs (R23); STOP's grace wait only for an engine told to stop (R114); only lock-taking commands wait (R59). -/
def seqInv (s : State) : Prop :=
  (s.lock = .free ∨ s.lock = .engine) ∧
  (s.lock = .engine ↔ inCycle s.seq = true) ∧
  (∀ k, s.seq = .cycle k → k < s.chanCount) ∧
  (∀ t, s.txn = some t → ∃ (k : Nat) (c : Channel), s.seq = .cycle k ∧ s.ch[k]? = some c ∧ t.req = req3 c.addr s.par.regTemp ∧
    t.len = 7 ∧ t.kind = .resp3 ∧ t.lim = s.par.attRead ∧ 1 ≤ t.attempt ∧ t.attempt ≤ max 1 t.lim) ∧
  (s.mode = .unset ↔ s.loop = .idle) ∧
  (s.seq ≠ .stopped ↔ s.mode = .background ∧ loopRuns s = true) ∧
  (s.running = true → loopRuns s = true) ∧
  (s.mode = .caller → loopRuns s = true → s.running = true) ∧
  (s.stopWait = true → s.mode = .background ∧ s.running = false ∧ s.seq ≠ .stopped) ∧
  (∀ w ∈ s.waiting, ∃ i, w = .cmd i ∧ takesLock i = true)

/-- The entries of the register file keep their place and identity (R33, R34). -/
def indexInv (s : State) : Prop := ∀ (i : Nat) (c : Channel), s.ch[i]? = some c → c.index = i

/-- How many messages the block has been given or will be given: those answered, those blocked on the lock, a STOP in its
grace wait, and those still in the inbox (R69). -/
def messageLedger (s : State) : Nat :=
  s.replies.length + s.waiting.length + (if s.stopWait then 1 else 0) +
    (s.inbox.filter fun i => match i with | .host _ => true | _ => false).length

/-- The block is at a point where it takes its next input: no host work can get the lock, no engine work between wait points. -/
def takesInput (s : State) : Prop :=
  (s.waiting = [] ∨ s.lock ≠ .free) ∧
  (match s.txn, s.seq with
    | some t, _ => t.sent = true
    | none, .stopped => True
    | none, .wait => True
    | none, _ => False)

/-- An outcome with its next state rewritten. -/
def mapNext (f : State → State) : Host.Outcome State Fault Refusal → Host.Outcome State Fault Refusal
  | .next s => .next (f s)
  | .fault r => .fault r
  | .refused r => .refused r

/-- Several instructions one after the other, stopping at the first that has no next state. -/
def execAll : List Instr → State → Host.Outcome State Fault Refusal
  | [], s => .next s
  | i :: is, s =>
    match exec i s with
    | .next t => execAll is t
    | o => o

/-- `s` with `e` put before its event history. -/
def State.prependEvents (e : List Event) (s : State) : State := { s with events := e ++ s.events }

/-- R100, R102 for one attempt: the reading that the bytes delivered in its response wait give. -/
def readingOf (p : Params) (answer : List Byte) : Option F :=
  if 7 ≤ answer.length ∧ crcOk (answer.take 7) = true then some (temp p (be16 (answer.getD 3 0) (answer.getD 4 0))) else none

/-- R122: what an enabled cycle makes of a channel, given its reading and `Now()`. -/
def enabledChan (p : Params) (m : Option F) (now : Nat) (c : Channel) : Channel :=
  let r := compute p m (advance p m now { c with lastReading := m })
  { r.1 with dutyOut := quant r.2 }

/-- The events of an attempt that failed with cause `c` on the answer `r` (R100, R133). -/
def failedEvents (t : Txn) (r : Option (List Byte)) (c : Cause) : List Event :=
  [.tx t.req, answerEvent r, .reset, .log (.attemptFailed (t.req.headD 0) c t.attempt)]

/-- What `RxExact(n, _)` answers when exactly these bytes arrive in the wait, the buffer being empty before (R100). -/
def answerOf (n : Nat) (bytes : List Byte) : Option (List Byte) := if n ≤ bytes.length then some (bytes.take n) else none

/-- The duty commands of an event list, in order. -/
def dutyEvents (es : List Event) : List (Nat × Nat) :=
  es.filterMap fun e => match e with | .duty i d => some (i, d) | _ => none

/-- The ready commands of an event list, in order. -/
def readyEvents (es : List Event) : List Bool :=
  es.filterMap fun e => match e with | .ready b => some b | _ => none

/-- `k` steps, stopping at the first that has no next state. -/
def stepN : Nat → State → Host.Outcome State Fault Refusal
  | 0, s => .next s
  | k + 1, s =>
    match step s with
    | .next t => stepN k t
    | o => o

/-- R73: the reserved host opcodes. -/
def reservedOpcode (op : Byte) : Prop := op = 0x00 ∨ (0x0B ≤ op ∧ op ≤ 0x0F) ∨ 0x13 ≤ op

/-- What one attempt leaves in the event history when the bus delivers `answer` and the attempt fails (R100, R133). -/
def failureEvents (t : Txn) (answer : List Byte) : List Event :=
  match judge t (answerOf t.len answer) with
  | .ok _ => []
  | .error c => failedEvents t (answerOf t.len answer) c

/-- The events of failed attempts of one transaction, numbered from 1 (R100). -/
def attemptEvents (t : Txn) (answers : List (List Byte)) : List Event :=
  (answers.mapIdx fun j a => failureEvents { t with attempt := j + 1 } a).flatten

/-- R103: the address that an answer to a discovery request gives, if it is usable. -/
def discAnswer (a : List Byte) : Option Byte :=
  if 7 ≤ a.length ∧ crcOk (a.take 7) = true ∧ a.getD 3 0 = 0 then some (a.getD 4 0) else none

/-- R98: an answer that confirms the write request `q`. -/
def echoConfirms (q a : List Byte) : Bool :=
  decide (8 ≤ a.length) && crcOk (a.take 8) && ((a.take 8).drop 1).take 5 == (q.drop 1).take 5

/-- R84, R48, R49: one of the requests that the block emits. -/
def isRequest (p : Params) (q : List Byte) : Prop :=
  (∃ a, q = req3 a p.regTemp) ∨ (∃ a, q = req3 a p.regAddr) ∨ ∃ a w, q = req6 a w

/-- A record for the log sink, not an action on the bus or the actuators. -/
def isLog : Event → Bool
  | .log _ => true
  | _ => false

/-- The record of a failed duty command, if the driver answered so (R124). -/
def dutyLog (i d : Nat) (ok : Bool) : List Event := if ok then [] else [.log (.dutyFailed i d)]

/-- The record of a failed ready command, if the driver answered so (R125). -/
def readyLog (b ok : Bool) : List Event := if ok then [] else [.log (.readyFailed b)]

/-- R113, R115: `es` commands duty 0 on each of `n` channels in order, then ready 0; beside that it holds only records of failed
actuator calls. -/
def zeroesOutputs (n : Nat) (es : List Event) : Prop :=
  es.filter (fun e => !isLog e) = ((List.range n).map fun i => Event.duty i 0) ++ [.ready false] ∧
  ∀ l, Event.log l ∈ es → (∃ i, i < n ∧ l = .dutyFailed i 0) ∨ l = .readyFailed false

/-- Only actuator answers have been drawn between `e` and `v`. -/
def onlyActDrawn (e v : Env) : Prop := v.rx = e.rx ∧ v.now = e.now ∧ v.spawn = e.spawn ∧ v.clock = e.clock

/-- R115: a channel after the outputs are zeroed: PID state and hold cleared, duty 0, the rest kept. -/
def zeroedChan (c : Channel) : Channel := { c with holdSince := none, iAcc := .zero, prevErr := .zero, dutyOut := 0 }

/-- R115, R114: the state after the background engine has exited, given the events of the exit and the environment after it. -/
def exitedState (s : State) (es : List Event) (v : Env) : State :=
  { s with
    ch := s.ch.map zeroedChan
    readyOut := false
    loop := .terminated
    enabled := false
    seq := .stopped
    lock := .free
    txn := none
    events := s.events ++ es
    env := v
    replies := if s.stopWait then s.replies ++ [[0x00]] else s.replies
    stopWait := false }

/-- R122: what a cycle makes of a channel whose read is answered by `a`. -/
def cycleChan (p : Params) (en : Bool) (now : Nat) (a : List Byte) (c : Channel) : Channel :=
  if en then enabledChan p (readingOf p a) now c else { c with lastReading := readingOf p a, dutyOut := 0 }

/-- R100, R102, R122 with one attempt: the events of channel `i`'s read answered by `a`. -/
def readEvents (p : Params) (i : Nat) (c : Channel) (a : List Byte) : List Event :=
  if (readingOf p a).isSome then [.tx (req3 c.addr p.regTemp), .rx (a.take 7)]
  else if 7 ≤ a.length then
    [.tx (req3 c.addr p.regTemp), .rx (a.take 7), .reset, .log (.attemptFailed c.addr .crcBad 1),
      .log (.noReading i .busChecksumMismatch)]
  else
    [.tx (req3 c.addr p.regTemp), .timeout, .reset, .log (.attemptFailed c.addr .timeout 1), .log (.noReading i .busTimeout)]

/-- R133: a channel whose read has failed in a cycle: no reading, no duty, the hold cleared when control is enabled. -/
def failedChan (en : Bool) (c : Channel) : Channel :=
  { c with lastReading := none, dutyOut := 0, holdSince := if en then none else c.holdSince }

/-- R121: the sequencer after channel `k` of `n`. -/
def seqAfter (k n : Nat) : Seq := if k + 1 < n then .cycle (k + 1) else .finish

/-- The rational value of a finite `F`; 0 for a NaN or an infinity. -/
def fVal : F → ℚ
  | .fin neg m e => (if neg then -1 else 1) * (m : ℚ) * (2 : ℚ) ^ e
  | _ => 0

/-- R12: `r` is `fl` in binary32 of the exact magnitude `v` with the sign `neg`: an infinity exactly from half a unit above the greatest
finite value on; else a value of binary32 that no value of it is nearer to, and, where another one is as near, the one of the two whose
last bit is even (its significand, written with 24 bits or at the least exponent, is even). -/
def correctlyRounded (neg : Bool) (v : ℚ) (r : F) : Prop :=
  (r = .inf neg ↔ ((2 : ℚ) ^ 25 - 1) * 2 ^ 103 ≤ v) ∧
  (v < ((2 : ℚ) ^ 25 - 1) * 2 ^ 103 → ∃ (m : Nat) (e : Int), r = .fin neg m e ∧ m < 2 ^ 24 ∧ -149 ≤ e ∧
    ∀ (k : Nat) (q : Int), k < 2 ^ 24 → -149 ≤ q →
      |v - (m : ℚ) * (2 : ℚ) ^ e| ≤ |v - (k : ℚ) * (2 : ℚ) ^ q| ∧
      (|v - (m : ℚ) * (2 : ℚ) ^ e| = |v - (k : ℚ) * (2 : ℚ) ^ q| → (m : ℚ) * (2 : ℚ) ^ e ≠ (k : ℚ) * (2 : ℚ) ^ q →
        ∃ (s : Nat) (b : Int), Even s ∧ s < 2 ^ 24 ∧ -149 ≤ b ∧ (2 ^ 23 ≤ s ∨ b = -149) ∧
          (m : ℚ) * (2 : ℚ) ^ e = (s : ℚ) * (2 : ℚ) ^ b))

/-- R12: what the IEEE operations of binary32, and the comparisons, give where an operand is an infinity and none is a NaN. -/
def infiniteOperands : Prop :=
  ∀ (n n' : Bool) (m : Nat) (e : Int),
    fAdd Fmt.binary32 (.inf n) (.fin n' m e) = .inf n ∧ fAdd Fmt.binary32 (.fin n' m e) (.inf n) = .inf n ∧
    fAdd Fmt.binary32 (.inf n) (.inf n') = (if n = n' then .inf n else .nan) ∧
    fSub Fmt.binary32 (.inf n) (.fin n' m e) = .inf n ∧ fSub Fmt.binary32 (.fin n' m e) (.inf n) = .inf (!n) ∧
    fSub Fmt.binary32 (.inf n) (.inf n') = (if n = n' then .nan else .inf n) ∧
    fMul Fmt.binary32 (.inf n) (.fin n' m e) = (if m = 0 then .nan else .inf (n != n')) ∧
    fMul Fmt.binary32 (.fin n' m e) (.inf n) = (if m = 0 then .nan else .inf (n != n')) ∧
    fMul Fmt.binary32 (.inf n) (.inf n') = .inf (n != n') ∧
    fDiv Fmt.binary32 (.inf n) (.fin n' m e) = .inf (n != n') ∧ fDiv Fmt.binary32 (.fin n' m e) (.inf n) = .fin (n != n') 0 0 ∧
    fDiv Fmt.binary32 (.inf n) (.inf n') = .nan ∧
    fLe (.inf n) (.fin n' m e) = n ∧ fLe (.fin n' m e) (.inf n) = !n ∧ fLe (.inf n) (.inf n') = (n || !n') ∧
    fLt (.inf n) (.fin n' m e) = n ∧ fLt (.fin n' m e) (.inf n) = !n ∧ fLt (.inf n) (.inf n') = (n && !n') ∧
    fAbs (.inf n) = .inf false ∧ fNeg (.inf n) = .inf (!n)

/-- R12: a NaN operand gives a NaN, and a false comparison. -/
def nanOperands : Prop :=
  fAbs .nan = .nan ∧ fNeg .nan = .nan ∧
  ∀ a : F, (∀ op ∈ [fAdd Fmt.binary32, fSub Fmt.binary32, fMul Fmt.binary32, fDiv Fmt.binary32], op a .nan = .nan ∧ op .nan a = .nan) ∧
    fLe a .nan = false ∧ fLe .nan a = false ∧ fLt a .nan = false ∧ fLt .nan a = false

/-- R12: `r` is the correctly rounded result of an exact sum `v`; an exact zero has the sign `zeroNeg`. -/
def correctSum (zeroNeg : Bool) (v : ℚ) (r : F) : Prop :=
  (v = 0 → r = .fin zeroNeg 0 0) ∧ (v ≠ 0 → correctlyRounded (decide (v < 0)) |v| r)

/-- R100, R133: the state after a failed attempt that is not the last: the answer's event, the reset, the record, the next attempt. -/
def retriedState (t : Txn) (ev : Event) (c : Cause) (s : State) : State :=
  { s with
    rxbuf := []
    txn := some { t with attempt := t.attempt + 1, sent := false }
    events := s.events ++ [ev, .reset, .log (.attemptFailed (t.req.headD 0) c t.attempt)] }

/-- R100, R122, R133: the state after the last attempt of channel `k`'s read has failed with cause `c`, `ok` the actuator's answer and `v`
the environment after it. -/
def failedReadState (k : Nat) (ch : Channel) (t : Txn) (ev : Event) (c : Cause) (err : ResultCode) (ok : Bool) (v : Env)
    (s : State) : State :=
  { s with
    rxbuf := []
    txn := none
    ch := s.ch.set k (failedChan (s.loop == .runEn) ch)
    seq := seqAfter k s.chanCount
    events := s.events ++ [ev, .reset, .log (.attemptFailed (t.req.headD 0) c t.attempt), .log (.noReading k err), .duty k 0] ++
      dutyLog k 0 ok
    env := v }

end Sys2Proof.Machine
end

