-- ==== Sys2Proof/Certificates/Slice0/Obligations.lean ====
section
/-! DEFINITION. The statements about the block, for the provers. Each docstring names the rules of spec/ it formalises, and the log
entry of every choice of the model it rests on. -/

open Sys2Proof Sys2Proof.Machine

/-! ### Encodings -/

/-- R70-R72, R80-R83: the bytes of any instruction, read at its interface, decode to it, every operand at every value. -/
def Obligations.DecodeEncodeRoundTrip : Prop := ∀ i : Instr, decode i.port (encode i) = .ok i

/-- R70-R74, R80-R84: bytes that decode are exactly the encoding of what they decode to, at that interface. -/
def Obligations.DecodedBytesReencode : Prop :=
  ∀ (p : Port) (bs : List Byte) (i : Instr), decode p bs = .ok i → i.port = p ∧ encode i = bs

/-- Words written out from R70-R72 and R80-R83 (examples of R117, R95, R96, R97, 95_test_vectors.md). -/
def Obligations.SpecWordsDecode : Prop :=
  decode .host [0x05, 0x00, 0x40, 0x00, 0x00, 0x00, 0x3F, 0x00, 0x00, 0x00, 0x3F, 0x80, 0x00, 0x00] =
    .ok (.setGains 0 0x40000000 0x3F000000 0x3F800000) ∧
  decode .host [0x09, 0x00, 0x05] = .ok (.assign 0x0005) ∧
  decode .host [0x03, 0x01] = .ok (.enable 1) ∧
  decode .host [0x11, 0x01] = .ok (.crcFeed 0x01) ∧
  decode .tx [0xFF, 0x03, 0x00, 0x02, 0x00, 0x01, 0x30, 0x14] = .ok (.mbReq3 0xFF 0x0002) ∧
  decode .tx [0x03, 0x06, 0x00, 0x02, 0x00, 0x05, 0xE9, 0xEB] = .ok (.mbReq6 0x03 0x0005) ∧
  decode .rx3 [0x01, 0x03, 0x02, 0x07, 0x08, 0xBB, 0xB2] = .ok (.mbResp3 0x01 0x03 0x02 0x0708 0xB2BB) ∧
  decode .rx6 [0x03, 0x06, 0x00, 0x02, 0x00, 0x05, 0xE9, 0xEB] = .ok (.mbResp6 0x03 0x06 0x0002 0x0005 0xEBE9)

/-- R74, in its order: an empty message, a reserved opcode, a wrong length, a reserved operand, else the command runs. That
an `F` operand is tested for finiteness after its conversion to `P_FMT` is the model's reading (log 13). -/
def Obligations.HostMessageDecoding : Prop :=
  ∀ (s : State) (m : List Byte) (rest : List Input), takesInput s → s.inbox = .host m :: rest →
    (m = [] → step s = .next { s with inbox := rest, replies := s.replies ++ [[0x11]] }) ∧
    (∀ op args, m = op :: args → reservedOpcode op →
      step s = .next { s with inbox := rest, replies := s.replies ++ [[0x10]] }) ∧
    (∀ op args n, m = op :: args →
      (op, n) ∈ ([(0x01, 1), (0x02, 1), (0x03, 2), (0x04, 1), (0x05, 14), (0x06, 6), (0x07, 1), (0x08, 1), (0x09, 3),
        (0x0A, 2), (0x10, 1), (0x11, 2), (0x12, 1)] : List (Byte × Nat)) → m.length ≠ n →
      step s = .next { s with inbox := rest, replies := s.replies ++ [[0x11]] }) ∧
    (∀ i : Instr, i.port = .host → m = encode i → i.wellFormed s.par s.chanCount = false →
      step s = .next { s with inbox := rest, replies := s.replies ++ [[0x12]] }) ∧
    (∀ i : Instr, i.port = .host → m = encode i → i.wellFormed s.par s.chanCount = true →
      step s = exec i { s with inbox := rest })

/-- R73: reserved opcodes and the four kinds of reserved operand values are answered with no other effect. That an `F` operand is
tested for finiteness after its conversion to `P_FMT` is the model's reading (log 13). -/
def Obligations.ReservedValuesRefused : Prop :=
  ∀ s : State,
    (∀ op args rest, takesInput s → s.inbox = .host (op :: args) :: rest → reservedOpcode op →
      step s = .next { s with inbox := rest, replies := s.replies ++ [[0x10]] }) ∧
    (∀ b : Byte, b ≠ 0 → b ≠ 1 → exec (.enable b) s = .next { s with replies := s.replies ++ [[0x12]] }) ∧
    (∀ (ch : Byte) (kp ki kd : Pattern),
      s.chanCount ≤ ch.toNat ∨ fIsFinite (operandF s.par kp) = false ∨ fIsFinite (operandF s.par ki) = false ∨
        fIsFinite (operandF s.par kd) = false →
      exec (.setGains ch kp ki kd) s = .next { s with replies := s.replies ++ [[0x12]] }) ∧
    (∀ (ch : Byte) (x : Pattern), s.chanCount ≤ ch.toNat ∨ fIsFinite (operandF s.par x) = false →
      exec (.setSetpoint ch x) s = .next { s with replies := s.replies ++ [[0x12]] }) ∧
    (∀ b : Byte, b < s.par.addrMin ∨ s.par.addrMax < b →
      exec (.readTemp b) s = .next { s with replies := s.replies ++ [[0x12]] })

/-- R53, R71 with `P_FMT` binary32: a finite operand pattern is taken exactly, and its value has that pattern again. -/
def Obligations.FloatOperandRoundTrip : Prop :=
  ∀ (o : OpenParams) (x : Pattern), fIsFinite (fOfPattern x) = true →
    operandF (Params.defaultWith o) x = fOfPattern x ∧ fPattern? (operandF (Params.defaultWith o) x) = some x

/-- R12 with `P_FMT` binary32: `fl` is the nearest value, ties to even, with overflow to an infinity; the operators on finite operands are
its value at the exact result (a finite value over a zero is an infinity, zero over zero a NaN), and on infinities and NaNs those of
the correctly rounded IEEE operation, which R12 names, with one NaN for all (log 12); the comparisons are those of the values, false with a NaN. -/
def Obligations.RoundingIsNearest : Prop :=
  (∀ (neg : Bool) (m : Nat) (e : Int), correctlyRounded neg ((m : ℚ) * (2 : ℚ) ^ e) (fRound Fmt.binary32 neg m e)) ∧
  (∀ (n n' : Bool) (m m' : Nat) (e e' : Int),
    correctSum (n && n') (fVal (.fin n m e) + fVal (.fin n' m' e')) (fAdd Fmt.binary32 (.fin n m e) (.fin n' m' e')) ∧
    correctSum (n && !n') (fVal (.fin n m e) - fVal (.fin n' m' e')) (fSub Fmt.binary32 (.fin n m e) (.fin n' m' e')) ∧
    correctlyRounded (n != n') |fVal (.fin n m e) * fVal (.fin n' m' e')| (fMul Fmt.binary32 (.fin n m e) (.fin n' m' e')) ∧
    (m' ≠ 0 → correctlyRounded (n != n') |fVal (.fin n m e) / fVal (.fin n' m' e')|
      (fDiv Fmt.binary32 (.fin n m e) (.fin n' m' e'))) ∧
    (m' = 0 → fDiv Fmt.binary32 (.fin n m e) (.fin n' m' e') = if m = 0 then .nan else .inf (n != n')) ∧
    (fLe (.fin n m e) (.fin n' m' e') = true ↔ fVal (.fin n m e) ≤ fVal (.fin n' m' e')) ∧
    (fLt (.fin n m e) (.fin n' m' e') = true ↔ fVal (.fin n m e) < fVal (.fin n' m' e')) ∧
    fVal (fAbs (.fin n m e)) = |fVal (.fin n m e)| ∧ fVal (fNeg (.fin n m e)) = -fVal (.fin n m e)) ∧
  infiniteOperands ∧ nanOperands

/-! ### CRC generator -/

/-- R91, R92, R93: the three host CRC commands, legal in every state, with everything they leave alone. -/
def Obligations.CrcCommands : Prop :=
  ∀ s : State,
    exec .crcInit s = .next { s with crcHost := 0xFFFF, replies := s.replies ++ [[0x00]] } ∧
    (∀ b : Byte, exec (.crcFeed b) s = .next { s with crcHost := crcByte s.crcHost b, replies := s.replies ++ [[0x00]] }) ∧
    exec .crcRead s = .next { s with replies := s.replies ++ [[0x00, hi s.crcHost, lo s.crcHost]] }

/-- R78, R88: the expansion of CRC16 on any bytes leaves the CRC of them and answers it. -/
def Obligations.PseudoCommandComputesCrc : Prop :=
  ∀ (bs : List Byte) (s : State),
    execAll (expand (.crc16 bs)) s = .next { s with
      crcHost := crc16 bs
      replies := s.replies ++ List.replicate (bs.length + 1) [0x00] ++ [[0x00, hi (crc16 bs), lo (crc16 bs)]] }

/-- R94: the residue, the check as a residue, the table form with its listed entries, the catalogue value. -/
def Obligations.CrcResidueAndTable : Prop :=
  (∀ s : List Byte, crc16 (withCrc s) = 0) ∧
  (∀ f : List Byte, 2 ≤ f.length → (crcOk f = true ↔ crc16 f = 0)) ∧
  (∀ (c : Half) (b : Byte), crcByte c b = (c >>> 8) ^^^ crcBit^[8] ((c ^^^ b.zeroExtend 16) &&& 0x00FF)) ∧
  crcBit^[8] 0x0000 = 0x0000 ∧ crcBit^[8] 0x0001 = 0xC0C1 ∧ crcBit^[8] 0x0002 = 0xC181 ∧ crcBit^[8] 0x0080 = 0xA001 ∧
  crcBit^[8] 0x00FF = 0x4040 ∧
  crc16 [0x31, 0x32, 0x33, 0x34, 0x35, 0x36, 0x37, 0x38, 0x39] = 0x4B37

/-- R90, corner cases: a frame that passes the check fails it with any one bit flipped. -/
def Obligations.CrcDetectsEveryBitFlip : Prop :=
  ∀ (f : List Byte) (j k : Nat), crcOk f = true → j < f.length → k < 8 →
    crcOk (f.modify j fun b => b ^^^ ((1 : Byte) <<< k)) = false

/-- R29: the host accumulator is written by CRC_INIT and CRC_FEED and by nothing else the block does. -/
def Obligations.CrcAccumulatorIsolated : Prop :=
  (∀ (i : Instr) (s t : State), i ≠ .crcInit → (∀ b, i ≠ .crcFeed b) → exec i s = .next t → t.crcHost = s.crcHost) ∧
  ∀ s t : State, seqInv s → step s = .next t → t.crcHost ≠ s.crcHost →
    ∃ rest, s.inbox = .host [0x10] :: rest ∨ ∃ b, s.inbox = .host [0x11, b] :: rest

/-! ### Frames and transactions -/

/-- R84, R48, R49: every frame that a step transmits is a function-3 request for one of the two registers or a function-6
request. -/
def Obligations.OnlyRequestsEmitted : Prop :=
  ∀ s t : State, seqInv s → step s = .next t →
    ∃ es, t.events = s.events ++ es ∧ ∀ q, Event.tx q ∈ es → isRequest s.par q

/-- R98: the CRC first, then bytes 1..5; byte 0 is not compared. -/
def Obligations.EchoComparison : Prop :=
  ∀ f q : List Byte, f.length = 8 → q.length = 8 →
    (crcOk f = false → echo6 f q = .error .crcBad) ∧
    (crcOk f = true → (∃ j, 1 ≤ j ∧ j ≤ 5 ∧ f[j]? ≠ q[j]?) → echo6 f q = .error .echoBad) ∧
    (crcOk f = true → (∀ j, 1 ≤ j → j ≤ 5 → f[j]? = q[j]?) → echo6 f q = .ok ())

/-- R99 with R9's defaults and any open parameters: a reading is the binary32 value nearest to a tenth of the raw value, ties to even,
finite and not negative; raw 0 reads +0.0. -/
def Obligations.ReadingIsNearestTenth : Prop :=
  ∀ (o : OpenParams), temp (Params.defaultWith o) 0 = .zero ∧
    ∀ raw : Half, correctlyRounded false ((raw.toNat : ℚ) / 10) (temp (Params.defaultWith o) raw) ∧
      ∃ m e, temp (Params.defaultWith o) raw = .fin false m e ∧ m < 2 ^ 24 ∧ -149 ≤ e ∧
        ∀ (k : Nat) (q : Int), k < 2 ^ 24 → -149 ≤ q →
          |(raw.toNat : ℚ) / 10 - (m : ℚ) * (2 : ℚ) ^ e| ≤ |(raw.toNat : ℚ) / 10 - (k : ℚ) * (2 : ℚ) ^ q|

/-- R100: a transaction ends at the first accepted answer, or with the last cause after its last attempt; every failed attempt
leaves its events. The bus answers are scripted in the state (log 2). -/
def Obligations.TransactionOutcomes : Prop :=
  ∀ (q : List Byte) (len lim : Nat) (k : RespKind) (s : State) (fails : List (List Byte)) (rest : List (List Byte)),
    (∀ b ∈ fails, ∃ c, judge (newTxn q len lim k) (answerOf len b) = .error c) →
    (∀ (a : List Byte) (v : Half), fails.length < lim → s.env.rx = fails ++ a :: rest →
      judge (newTxn q len lim k) (answerOf len a) = .ok v →
      runTxn q len lim k s = (.ok v, { s with
        txn := none
        rxbuf := a.drop len
        events := s.events ++ attemptEvents (newTxn q len lim k) fails ++ [.tx q, .rx (a.take len)]
        env := { s.env with rx := rest } })) ∧
    (∀ (b : List Byte) (c : Cause), fails.length = lim → fails.getLast? = some b → s.env.rx = fails ++ rest →
      judge (newTxn q len lim k) (answerOf len b) = .error c →
      runTxn q len lim k s = (.error c, { s with
        txn := none
        rxbuf := []
        events := s.events ++ attemptEvents (newTxn q len lim k) fails
        env := { s.env with rx := rest } }))

/-- R102, R76, R129: READ_TEMP answers the reading, or the error of the last attempt. Bus answers scripted (log 2). That a reading without a
binary32 pattern (P_FMT other than binary32, or a NaN) is answered with a free pattern is the model's choice (log 12), as is what a
`P_TEMP_SCALE` that is zero (log 21) or not finite (log 27) reads. -/
def Obligations.ReadTempOutcomes : Prop :=
  ∀ (b : Byte) (s : State) (fails : List (List Byte)) (a : List Byte) (rest : List (List Byte)),
    s.par.addrMin ≤ b → b ≤ s.par.addrMax → s.loop = .idle ∨ s.loop = .terminated → s.seq = .stopped →
    (∀ x ∈ fails, readingOf s.par x = none) → fails.length < s.par.attRead → s.env.rx = fails ++ a :: rest →
    (∀ m, readingOf s.par a = some m →
      exec (.readTemp b) s = .next { s with
        txn := none
        rxbuf := a.drop 7
        events := s.events ++ attemptEvents (newTxn (req3 b s.par.regTemp) 7 s.par.attRead .resp3) fails ++
          [.tx (req3 b s.par.regTemp), .rx (a.take 7)]
        env := { s.env with rx := rest }
        replies := s.replies ++ [0x00 :: bytes32 (bits32 m)] }) ∧
    (readingOf s.par a = none → fails.length + 1 = s.par.attRead →
      exec (.readTemp b) s = .next { s with
        txn := none
        rxbuf := []
        events := s.events ++ attemptEvents (newTxn (req3 b s.par.regTemp) 7 s.par.attRead .resp3) (fails ++ [a])
        env := { s.env with rx := rest }
        replies := s.replies ++ [[if 7 ≤ a.length then 0x02 else 0x01]] })

/-- R103, R76: DISCOVER answers the address of the first usable response, or BUS_NO_DEVICE. Bus answers scripted (log 2). -/
def Obligations.DiscoverOutcomes : Prop :=
  ∀ (s : State) (fails : List (List Byte)) (rest : List (List Byte)),
    s.loop = .idle ∨ s.loop = .terminated → s.seq = .stopped → (∀ x ∈ fails, discAnswer x = none) →
    (∀ a v, fails.length < s.par.attDisc → s.env.rx = fails ++ a :: rest → discAnswer a = some v →
      exec .discover s = .next { s with
        txn := none
        rxbuf := a.drop 7
        events := s.events ++ attemptEvents (newTxn (req3 s.par.bcast s.par.regAddr) 7 s.par.attDisc .disc) fails ++
          [.tx (req3 s.par.bcast s.par.regAddr), .rx (a.take 7)]
        env := { s.env with rx := rest }
        replies := s.replies ++ [[0x00, v]] }) ∧
    (1 ≤ s.par.attDisc → fails.length = s.par.attDisc → s.env.rx = fails ++ rest →
      exec .discover s = .next { s with
        txn := none
        rxbuf := []
        events := s.events ++ attemptEvents (newTxn (req3 s.par.bcast s.par.regAddr) 7 s.par.attDisc .disc) fails
        env := { s.env with rx := rest }
        replies := s.replies ++ [[0x03]] })

/-- R104: ASSIGN after a discovery: confirmed by its echo, or unconfirmed after the last write attempt; or no device and then no
write. No channel is written. Bus answers scripted (log 2). -/
def Obligations.AssignOutcomes : Prop :=
  ∀ (w : Half) (s : State) (fails : List (List Byte)) (rest : List (List Byte)),
    s.loop = .idle ∨ s.loop = .terminated → s.seq = .stopped → (∀ x ∈ fails, discAnswer x = none) →
    (∀ a v fails2 e, fails.length < s.par.attDisc → discAnswer a = some v → fails2.length < s.par.attWrite →
      (∀ x ∈ fails2, echoConfirms (req6 v w) x = false) → echoConfirms (req6 v w) e = true →
      s.env.rx = fails ++ a :: (fails2 ++ e :: rest) →
      exec (.assign w) s = .next { s with
        txn := none
        rxbuf := e.drop 8
        events := s.events ++ attemptEvents (newTxn (req3 s.par.bcast s.par.regAddr) 7 s.par.attDisc .disc) fails ++
          [.tx (req3 s.par.bcast s.par.regAddr), .rx (a.take 7)] ++
          attemptEvents (newTxn (req6 v w) 8 s.par.attWrite .echo) fails2 ++ [.tx (req6 v w), .rx (e.take 8)]
        env := { s.env with rx := rest }
        replies := s.replies ++ [[0x00]] }) ∧
    (∀ a v fails2, fails.length < s.par.attDisc → discAnswer a = some v → 1 ≤ s.par.attWrite →
      fails2.length = s.par.attWrite → (∀ x ∈ fails2, echoConfirms (req6 v w) x = false) →
      s.env.rx = fails ++ a :: (fails2 ++ rest) →
      exec (.assign w) s = .next { s with
        txn := none
        rxbuf := []
        events := s.events ++ attemptEvents (newTxn (req3 s.par.bcast s.par.regAddr) 7 s.par.attDisc .disc) fails ++
          [.tx (req3 s.par.bcast s.par.regAddr), .rx (a.take 7)] ++
          attemptEvents (newTxn (req6 v w) 8 s.par.attWrite .echo) fails2
        env := { s.env with rx := rest }
        replies := s.replies ++ [[0x04]] }) ∧
    (1 ≤ s.par.attDisc → fails.length = s.par.attDisc → s.env.rx = fails ++ rest →
      exec (.assign w) s = .next { s with
        txn := none
        rxbuf := []
        events := s.events ++ attemptEvents (newTxn (req3 s.par.bcast s.par.regAddr) 7 s.par.attDisc .disc) fails
        env := { s.env with rx := rest }
        replies := s.replies ++ [[0x03]] })

/-- R64, R116: the bus commands while the loop owns the transport, and STEP outside a running caller-mode loop, are answered
WRONG_STATE with no other effect. -/
def Obligations.WrongStateRefused : Prop :=
  ∀ s : State,
    (¬ ((s.loop = .idle ∨ s.loop = .terminated) ∧ s.seq = .stopped) →
      exec .discover s = .next { s with replies := s.replies ++ [[0x13]] } ∧
      (∀ w, exec (.assign w) s = .next { s with replies := s.replies ++ [[0x13]] }) ∧
      ∀ b, s.par.addrMin ≤ b → b ≤ s.par.addrMax →
        exec (.readTemp b) s = .next { s with replies := s.replies ++ [[0x13]] }) ∧
    (s.mode ≠ .caller ∨ (s.loop ≠ .runDis ∧ s.loop ≠ .runEn) ∨ s.running = false →
      exec .stepCycle s = .next { s with replies := s.replies ++ [[0x13]] })

/-- R80, R81, R100: a request frame is emitted after a flush and its transaction is then at the response wait. That a frame which
is not the open transaction's request opens one is the model's choice (log 9), as is that an attempt limit of 0 opens one all the same (log 21). -/
def Obligations.RequestEmitted : Prop :=
  ∀ (a : Byte) (s : State),
    (∀ r t, s.txn = some t → t.req = req3 a r →
      exec (.mbReq3 a r) s =
        .next { s with rxbuf := [], txn := some { t with sent := true }, events := s.events ++ [.tx (req3 a r)] }) ∧
    (∀ r, (∀ t, s.txn = some t → t.req ≠ req3 a r) →
      exec (.mbReq3 a r) s = .next { s with
        rxbuf := []
        txn := some { request3Txn s.par a r with sent := true }
        events := s.events ++ [.tx (req3 a r)] }) ∧
    (∀ w t, s.txn = some t → t.req = req6 a w →
      exec (.mbReq6 a w) s =
        .next { s with rxbuf := [], txn := some { t with sent := true }, events := s.events ++ [.tx (req6 a w)] }) ∧
    (∀ w, (∀ t, s.txn = some t → t.req ≠ req6 a w) →
      exec (.mbReq6 a w) s = .next { s with
        rxbuf := []
        txn := some { newTxn (req6 a w) 8 s.par.attWrite .echo with sent := true }
        events := s.events ++ [.tx (req6 a w)] })

/-- R121, R102, R100: at channel `k` the engine opens the read of that channel's slave and transmits its request, in two steps. An
attempt limit of 0, which R100 excludes, makes one attempt (log 21). -/
def Obligations.EngineReadsChannel : Prop :=
  ∀ (s : State) (k : Nat) (c : Channel), s.waiting = [] ∨ s.lock ≠ .free → s.mode ≠ .background ∨ s.running = true →
    s.txn = none → s.seq = .cycle k → s.ch[k]? = some c →
    stepN 2 s = .next { s with
      rxbuf := []
      txn := some { newTxn (req3 c.addr s.par.regTemp) 7 s.par.attRead .resp3 with sent := true }
      events := s.events ++ [.tx (req3 c.addr s.par.regTemp)] }

/-- R97, R100, R121, R122: a response that passes the CRC check, in a cycle of the background engine: the transaction closes, the reading is
recorded, the duty of the channel commanded, the sequencer moves on. The driver's answer and the time are scripted (log 2, 3); that the
response is accepted although STOP has been asked is the model's reading of R101 (log 6). Where the parameters leave R9's
domain, what the reading and the duty are is the model's choice: a `P_TEMP_SCALE` of zero (log 21), a duty above 100 (log 25) or one
outside the domain of R123 (log 19), a parameter that is not finite or crosses the bounds of the clamp (log 27). -/
def Obligations.ResponseInCycle : Prop :=
  ∀ (a fn n : Byte) (data crc : Half) (s : State) (t : Txn) (k : Nat) (c : Channel) (ok : Bool) (acts : List Bool),
    s.txn = some t → t.sent = true → t.len = 7 → t.kind = .resp3 → s.seq = .cycle k → s.ch[k]? = some c →
    crcOk [a, fn, n, hi data, lo data, lo crc, hi crc] = true → s.env.act = ok :: acts →
    (s.loop ≠ .runEn →
      exec (.mbResp3 a fn n data crc) s = .next { s with
        txn := none
        ch := s.ch.set k { c with lastReading := some (temp s.par data), dutyOut := 0 }
        seq := seqAfter k s.chanCount
        events := s.events ++ [.rx [a, fn, n, hi data, lo data, lo crc, hi crc], .duty k 0] ++ dutyLog k 0 ok
        env := { s.env with act := acts } }) ∧
    (∀ d ds, s.loop = .runEn → s.env.now = d :: ds →
      exec (.mbResp3 a fn n data crc) s = .next { s with
        txn := none
        ch := s.ch.set k (enabledChan s.par (some (temp s.par data)) (s.env.clock + d) c)
        seq := seqAfter k s.chanCount
        events := s.events ++ [.rx [a, fn, n, hi data, lo data, lo crc, hi crc],
            .duty k (enabledChan s.par (some (temp s.par data)) (s.env.clock + d) c).dutyOut] ++
          dutyLog k (enabledChan s.par (some (temp s.par data)) (s.env.clock + d) c).dutyOut ok
        env := { s.env with act := acts, now := ds, clock := s.env.clock + d } })

/-- R133, R100, R122: a response wait that ends in a bad CRC or a timeout inside a cycle: the next attempt, or no reading and duty 0
for this channel with its PID state as it was. The driver's answer and the time are scripted (log 2, 3); that a response which completes
is judged, and its attempt reset and recorded, although STOP has been asked is the model's reading of R101 (log 6), and that an attempt limit of 0
makes one attempt its choice (log 21). -/
def Obligations.FailedAttemptInCycle : Prop :=
  ∀ (s : State) (t : Txn) (k : Nat) (c : Channel) (ok : Bool) (acts : List Bool) (d : Nat) (ds : List Nat),
    s.txn = some t → t.sent = true → t.len = 7 → t.kind = .resp3 → s.seq = .cycle k → s.ch[k]? = some c →
    s.env.act = ok :: acts → s.env.now = d :: ds →
    (∀ (a fn n : Byte) (data crc : Half), crcOk [a, fn, n, hi data, lo data, lo crc, hi crc] = false →
      (t.attempt < t.lim → exec (.mbResp3 a fn n data crc) s =
        .next (retriedState t (.rx [a, fn, n, hi data, lo data, lo crc, hi crc]) .crcBad s)) ∧
      (t.lim ≤ t.attempt → exec (.mbResp3 a fn n data crc) s =
        .next (failedReadState k c t (.rx [a, fn, n, hi data, lo data, lo crc, hi crc]) .crcBad .busChecksumMismatch ok
          (if s.loop = .runEn then { s.env with act := acts, now := ds, clock := s.env.clock + d }
            else { s.env with act := acts }) s))) ∧
    (∀ rest, takesInput s → s.inbox = .timeout :: rest → s.running = true →
      (t.attempt < t.lim → step s = .next (retriedState t .timeout .timeout { s with inbox := rest })) ∧
      (t.lim ≤ t.attempt → step s =
        .next (failedReadState k c t .timeout .timeout .busTimeout ok
          (if s.loop = .runEn then { s.env with act := acts, now := ds, clock := s.env.clock + d }
            else { s.env with act := acts }) { s with inbox := rest })))

/-- R30, R83, R98, R100: a frame nobody awaits stays in the receive buffer; an echo awaited outside a cycle ends its transaction or its
attempt. What a frame does outside a cycle is the model's reading (log 9); an attempt limit of 0 makes one
attempt (log 21). -/
def Obligations.FramesOutsideCycle : Prop :=
  ∀ s : State,
    (∀ (a fn n : Byte) (data crc : Half), (∀ t, s.txn = some t → t.sent = false ∨ t.len ≠ 7) →
      exec (.mbResp3 a fn n data crc) s =
        .next { s with rxbuf := s.rxbuf ++ [a, fn, n, hi data, lo data, lo crc, hi crc] }) ∧
    (∀ (a fn : Byte) (reg data crc : Half), (∀ t, s.txn = some t → t.sent = false ∨ t.len ≠ 8) →
      exec (.mbResp6 a fn reg data crc) s =
        .next { s with rxbuf := s.rxbuf ++ [a, fn, hi reg, lo reg, hi data, lo data, lo crc, hi crc] }) ∧
    (∀ (a fn : Byte) (reg data crc : Half) (t : Txn), s.txn = some t → t.sent = true → t.len = 8 → t.kind = .echo →
      (∀ k, s.seq ≠ .cycle k) →
      (echo6 [a, fn, hi reg, lo reg, hi data, lo data, lo crc, hi crc] t.req = .ok () →
        exec (.mbResp6 a fn reg data crc) s = .next { s with
          txn := none
          events := s.events ++ [.rx [a, fn, hi reg, lo reg, hi data, lo data, lo crc, hi crc]] }) ∧
      (∀ c, echo6 [a, fn, hi reg, lo reg, hi data, lo data, lo crc, hi crc] t.req = .error c → t.attempt < t.lim →
        exec (.mbResp6 a fn reg data crc) s =
          .next (retriedState t (.rx [a, fn, hi reg, lo reg, hi data, lo data, lo crc, hi crc]) c s)) ∧
      (∀ c, echo6 [a, fn, hi reg, lo reg, hi data, lo data, lo crc, hi crc] t.req = .error c → t.lim ≤ t.attempt →
        exec (.mbResp6 a fn reg data crc) s = .next { s with
          rxbuf := []
          txn := none
          events := s.events ++ [.rx [a, fn, hi reg, lo reg, hi data, lo data, lo crc, hi crc], .reset,
            .log (.attemptFailed (t.req.headD 0) c t.attempt)] }))

/-! ### Stage ramp, PID engine, readiness, quantisation -/

/-- R105, corner cases, for every setpoint that a binary32 pattern gives. -/
def Obligations.StageTargetsExact : Prop :=
  ∀ (o : OpenParams) (x : Pattern), fIsFinite (fOfPattern x) = true →
    (targetsOf (Params.defaultWith o) (fOfPattern x)).q3 = fOfPattern x ∧
    ((2 : ℚ) ^ (-124 : Int) ≤ |fVal (fOfPattern x)| →
      fVal (targetsOf (Params.defaultWith o) (fOfPattern x)).q1 = fVal (fOfPattern x) / 2 ∧
      fVal (targetsOf (Params.defaultWith o) (fOfPattern x)).q0 = fVal (fOfPattern x) / 4) ∧
    (∀ neg, fOfPattern x = .fin neg 0 0 → targetsOf (Params.defaultWith o) (fOfPattern x) =
      ⟨.fin neg 0 0, .fin neg 0 0, .fin neg 0 0, .fin neg 0 0⟩)

/-- R106, R111 item 4: with a constant in-tolerance reading the hold starts at the first sample and stays until a sample at least
`P_HOLD_MS` later, which advances the stage by one, capped at 3, and clears the hold; any other sample clears it. That a
hold time of 0 advances at the second sample is the model's choice (log 21). -/
def Obligations.HoldThenAdvance : Prop :=
  ∀ (p : Params) (c : Channel) (x : F) (t0 : Nat) (ts : List Nat),
    fLe (fAbs (fSub p.fmt x (stageOf c.stageT c.stage))) p.stageTol = true → c.holdSince = none → (∀ u ∈ ts, t0 ≤ u ∧ u < t0 + p.holdMs) →
    (t0 :: ts).foldl (fun c u => advance p (some x) u c) c = { c with holdSince := some t0 } ∧
    (∀ t, t0 + p.holdMs ≤ t → ∃ k : Fin 4, k.val = min (c.stage.val + 1) 3 ∧
      advance p (some x) t ((t0 :: ts).foldl (fun c u => advance p (some x) u c) c) =
        { c with stage := k, holdSince := none }) ∧
    (∀ mo t, (∀ y, mo = some y → fLe (fAbs (fSub p.fmt y (stageOf c.stageT c.stage))) p.stageTol = false) →
      advance p mo t ((t0 :: ts).foldl (fun c u => advance p (some x) u c) c) = { c with holdSince := none })

/-- R107: the snap takes the highest stage whose target is at most the reading, else 0, and clears the hold. -/
def Obligations.SnapTakesHighestStage : Prop :=
  ∀ c : Channel, ∃ k : Fin 4, snap c = { c with stage := k, holdSince := none } ∧
    (c.lastReading = none → k = 0) ∧
    ∀ r, c.lastReading = some r →
      (k = 0 ∨ fLe (stageOf c.stageT k) r = true) ∧ ∀ j, fLe (stageOf c.stageT j) r = true → j ≤ k

/-- R108, R109, R111 items 1-3, R123. The law, for any parameters, channel and reading: the error against the current stage's target, the
integral +0.0 inside the deadband and else the clamped accumulation, the output the clamped sum of the three terms with the new integral
and the difference of the errors; what the clamp is; without a reading nothing is written and the output is +0.0. The bounds, with R9's
defaults and any channel state: the output lies in [0, 100] and quantises to at most 100, the integral is within its bounds after
every reading. R108 gives the clamp for `lo ≤ hi`; that its pseudocode is followed for other bounds too, which a NaN or negative `P_ILIM`
or `P_OUT_MAX` gives, is the model's choice (log 27). -/
def Obligations.ComputeStaysInBounds : Prop :=
  (∀ (p : Params) (c : Channel), compute p none c = (c, .zero) ∧
    ∀ (x e : F), e = fSub p.fmt (stageOf c.stageT c.stage) x →
      ∃ (i u : F), compute p (some x) c = ({ c with iAcc := i, prevErr := e }, u) ∧
        (fLt (fAbs e) p.deadband = true → i = .zero) ∧
        (fLt (fAbs e) p.deadband = false → i = clamp (fAdd p.fmt c.iAcc e) (fNeg p.iLim) p.iLim) ∧
        u = clamp (fAdd p.fmt (fAdd p.fmt (fMul p.fmt c.kp e) (fMul p.fmt c.ki i)) (fMul p.fmt c.kd (fSub p.fmt e c.prevErr)))
          .zero p.outMax) ∧
  (∀ x lo hi : F,
    (fIsNan x = true → clamp x lo hi = lo) ∧ (fLt x lo = true → clamp x lo hi = lo) ∧
    (fLt x lo = false → fLt hi x = true → clamp x lo hi = hi) ∧
    (fIsNan x = false → fLt x lo = false → fLt hi x = false → clamp x lo hi = x)) ∧
  ∀ (o : OpenParams) (mo : Option F) (c : Channel),
    fLe .zero (compute (Params.defaultWith o) mo c).2 = true ∧
    fLe (compute (Params.defaultWith o) mo c).2 (Params.defaultWith o).outMax = true ∧
    quant (compute (Params.defaultWith o) mo c).2 ≤ 100 ∧
    (∀ x, mo = some x →
      fLe (fNeg (Params.defaultWith o).iLim) (compute (Params.defaultWith o) mo c).1.iAcc = true ∧
      fLe (compute (Params.defaultWith o) mo c).1.iAcc (Params.defaultWith o).iLim = true)

/-- R123: the nearest integer, ties to even, on its whole domain. -/
def Obligations.QuantNearestTiesToEven : Prop :=
  (∀ (m : Nat) (e : Int), (m : ℚ) * (2 : ℚ) ^ e ≤ 100 →
    |(quant (.fin false m e) : ℚ) - (m : ℚ) * (2 : ℚ) ^ e| ≤ 1 / 2 ∧
    (|(quant (.fin false m e) : ℚ) - (m : ℚ) * (2 : ℚ) ^ e| = 1 / 2 → Even (quant (.fin false m e))) ∧
    quant (.fin false m e) ≤ 100) ∧
  ∀ e : Int, quant (.fin true 0 e) = 0

/-- R110, R111 item 5: every channel has a reading within the bounds of its final setpoint; the stage is not read. -/
def Obligations.ReadinessRule : Prop :=
  ∀ (p : Params) (chs : List Channel),
    (readiness p chs = true ↔ ∀ c ∈ chs, ∃ r, c.lastReading = some r ∧ fLe (fMul p.fmt p.readyLo c.sp) r = true ∧
      fLe r (fMul p.fmt p.readyHi c.sp) = true) ∧
    ∀ g : Channel → Fin 4, readiness p (chs.map fun c => { c with stage := g c }) = readiness p chs

/-! ### Commands of the loop -/

/-- R112: START from IDLE in the mode the environment's draw gives; refused in every other state. -/
def Obligations.StartCommand : Prop :=
  ∀ s : State, s.lock = .free →
    (s.loop = .idle → exec .start s = .next { s with
      loop := .runDis
      enabled := false
      running := true
      mode := if (drawSpawn s).1 then .background else .caller
      seq := if (drawSpawn s).1 then .wait else .stopped
      env := (drawSpawn s).2.env
      replies := s.replies ++ [[0x00]] }) ∧
    (s.loop ≠ .idle → exec .start s = .next { s with replies := s.replies ++ [[0x13]] })

/-- R113: ENABLE 1 snaps and clears, ENABLE 0 zeroes the outputs and clears, the same state changes nothing, other states and
other flags are refused. -/
def Obligations.EnableCommand : Prop :=
  ∀ s : State, s.lock = .free →
    (s.loop = .runDis → s.running = true →
      exec (.enable 1) s = .next { s with
        ch := s.ch.map fun c => { snap c with iAcc := .zero, prevErr := .zero }
        loop := .runEn
        enabled := true
        replies := s.replies ++ [[0x00]] } ∧
      exec (.enable 0) s = .next { s with replies := s.replies ++ [[0x00]] }) ∧
    (s.loop = .runEn → s.running = true →
      exec (.enable 1) s = .next { s with replies := s.replies ++ [[0x00]] } ∧
      ∃ es v, zeroesOutputs s.chanCount es ∧ onlyActDrawn s.env v ∧
        exec (.enable 0) s = .next { s with
          ch := s.ch.map zeroedChan
          readyOut := false
          loop := .runDis
          enabled := false
          events := s.events ++ es
          env := v
          replies := s.replies ++ [[0x00]] }) ∧
    ((s.loop = .idle ∨ s.loop = .terminated ∨ s.running = false) → ∀ b : Byte, b = 0 ∨ b = 1 →
      exec (.enable b) s = .next { s with replies := s.replies ++ [[0x13]] }) ∧
    (∀ b : Byte, b ≠ 0 → b ≠ 1 → exec (.enable b) s = .next { s with replies := s.replies ++ [[0x12]] })

/-- R114, R115: STOP in caller mode exits at once; in background mode it clears the running flag and waits for the engine; it is refused
elsewhere. The flag that a STOP waits is the model's (log 8). -/
def Obligations.StopCommand : Prop :=
  ∀ s : State,
    (s.loop = .runDis ∨ s.loop = .runEn → s.running = true →
      (s.mode = .caller → s.lock = .free → ∃ es v, zeroesOutputs s.chanCount es ∧ onlyActDrawn s.env v ∧
        exec .stop s = .next { s with
          running := false
          ch := s.ch.map zeroedChan
          readyOut := false
          loop := .terminated
          enabled := false
          seq := .stopped
          events := s.events ++ es
          env := v
          replies := s.replies ++ [[0x00]] }) ∧
      (s.mode = .background → s.seq ≠ .stopped → exec .stop s = .next { s with running := false, stopWait := true }) ∧
      (s.mode = .background → s.seq = .stopped →
        exec .stop s = .next { s with running := false, replies := s.replies ++ [[0x00]] })) ∧
    (s.loop = .idle ∨ s.loop = .terminated ∨ s.running = false →
      exec .stop s = .next { s with replies := s.replies ++ [[0x13]] })

/-- R116, R121, R122 with one attempt for each read: a whole cycle in caller mode as a function on the channels, the bus answers,
the driver's answers and the times (scripted: log 2, 3). Where the parameters leave R9's
domain, what the reading and the duty are is the model's choice: a `P_TEMP_SCALE` of zero (log 21), a duty above 100 (log 25) or one
outside the domain of R123 (log 19), a parameter that is not finite or crosses the bounds of the clamp (log 27). -/
def Obligations.CallerCycleIsChannelwise : Prop :=
  ∀ (s : State) (answers rx : List (List Byte)) (oks act : List Bool) (okReady : Bool) (ds now : List Nat)
    (last : List Byte),
    s.mode = .caller → s.loop = .runDis ∨ s.loop = .runEn → s.running = true → s.lock = .free → s.par.attRead = 1 →
    answers.length = s.chanCount → answers.getLast? = some last → s.env.rx = answers ++ rx →
    oks.length = s.chanCount → s.env.act = oks ++ okReady :: act →
    ds.length = (if s.loop = .runEn then s.chanCount else 0) → s.env.now = ds ++ now →
    ∀ (chs : List Channel) (rdy : Bool),
      chs = ((s.ch.zip answers).mapIdx fun i x =>
        cycleChan s.par (s.loop == .runEn) (s.env.clock + (ds.take (i + 1)).sum) x.2 x.1) →
      rdy = (s.loop == .runEn && readiness s.par chs) →
      exec .stepCycle s = .next { s with
        ch := chs
        rxbuf := if (readingOf s.par last).isSome then last.drop 7 else []
        txn := none
        events := s.events ++
          ((chs.zip (answers.zip oks)).mapIdx fun i x =>
            readEvents s.par i x.1 x.2.1 ++ .duty i x.1.dutyOut :: dutyLog i x.1.dutyOut x.2.2).flatten ++
          .ready rdy :: readyLog rdy okReady
        readyOut := rdy
        seq := .stopped
        env := { s.env with rx := rx, act := act, now := now, clock := s.env.clock + ds.sum }
        replies := s.replies ++ [[0x00]] }

/-- R116, R121, R124, R125: a STEP in caller mode completes whatever the environment answers, with one duty command for each channel in
order and one ready command, zeros while control is disabled. For parameters outside
R9's domain a read still makes one attempt (log 21), a duty above 100 is commanded (log 25) and one outside the domain of R123 is free
(log 19). -/
def Obligations.CycleCommandsOutputsOnce : Prop :=
  ∀ s : State, s.mode = .caller → s.loop = .runDis ∨ s.loop = .runEn → s.running = true → s.lock = .free →
    ∃ t es, exec .stepCycle s = .next t ∧ t.events = s.events ++ es ∧
      dutyEvents es = (t.ch.mapIdx fun i c => (i, c.dutyOut)) ∧ t.ch.length = s.ch.length ∧
      readyEvents es = [t.readyOut] ∧
      (s.loop = .runDis → t.readyOut = false ∧ ∀ c ∈ t.ch, c.dutyOut = 0) ∧
      (s.loop = .runEn → t.readyOut = readiness t.par t.ch) ∧
      t.loop = s.loop ∧ t.enabled = s.enabled ∧ t.running = true ∧ t.mode = .caller ∧ t.lock = .free ∧ t.seq = .stopped ∧
      t.crcHost = s.crcHost ∧ t.replies = s.replies ++ [[0x00]] ∧ t.inbox = s.inbox ∧ t.waiting = s.waiting

/-- R117: the three gains of one channel change together, nothing else does; illegal operands are refused. That the operands are
tested for finiteness after their conversion to `P_FMT` is the model's reading (log 13). -/
def Obligations.SetGainsCommand : Prop :=
  ∀ (s : State) (ch : Byte) (kp ki kd : Pattern), s.lock = .free →
    (ch.toNat < s.chanCount → fIsFinite (operandF s.par kp) = true → fIsFinite (operandF s.par ki) = true →
      fIsFinite (operandF s.par kd) = true →
      exec (.setGains ch kp ki kd) s = .next { s with
        ch := s.ch.modify ch.toNat fun c =>
          { c with kp := operandF s.par kp, ki := operandF s.par ki, kd := operandF s.par kd }
        replies := s.replies ++ [[0x00]] }) ∧
    (s.chanCount ≤ ch.toNat ∨ fIsFinite (operandF s.par kp) = false ∨ fIsFinite (operandF s.par ki) = false ∨
        fIsFinite (operandF s.par kd) = false →
      exec (.setGains ch kp ki kd) s = .next { s with replies := s.replies ++ [[0x12]] })

/-- R118: the setpoint, the targets of it and the hold of one channel change, nothing else does; illegal operands are refused.
That the operand is tested for finiteness after its conversion to `P_FMT` is the model's reading (log 13). -/
def Obligations.SetSetpointCommand : Prop :=
  ∀ (s : State) (ch : Byte) (x : Pattern), s.lock = .free →
    (ch.toNat < s.chanCount → fIsFinite (operandF s.par x) = true →
      exec (.setSetpoint ch x) s = .next { s with
        ch := s.ch.modify ch.toNat fun c =>
          { c with
            sp := operandF s.par x
            stageT := ⟨fMul s.par.fmt (operandF s.par x) s.par.stageFrac.q0, fMul s.par.fmt (operandF s.par x) s.par.stageFrac.q1,
              fMul s.par.fmt (operandF s.par x) s.par.stageFrac.q2, fMul s.par.fmt (operandF s.par x) s.par.stageFrac.q3⟩
            holdSince := none }
        replies := s.replies ++ [[0x00]] }) ∧
    (s.chanCount ≤ ch.toNat ∨ fIsFinite (operandF s.par x) = false →
      exec (.setSetpoint ch x) s = .next { s with replies := s.replies ++ [[0x12]] })

/-- R119, R75, R21, R24: STATUS answers 5 + 7·P_N bytes of data in the layout of R75 and changes nothing. That a duty of 256 or more,
which R26 excludes, shows its low 8 bits is the model's choice (log 25); so is that a reading without a binary32 pattern shows a free
pattern (log 12). -/
def Obligations.StatusReport : Prop :=
  ∀ s : State, s.lock = .free →
    ∃ r : List Byte, exec .status s = .next { s with replies := s.replies ++ [r] } ∧
      r.length = 1 + (5 + 7 * s.chanCount) ∧
      r.take 6 = [0x00,
        (match s.loop with | .idle => 0 | .runDis => 1 | .runEn => 2 | .terminated => 3),
        (match s.mode with | .unset => 0 | .background => 1 | .caller => 2),
        (if s.running then 1 else 0), (if s.enabled then 1 else 0), (if s.readyOut then 1 else 0)] ∧
      ∀ (i : Nat) (c : Channel), s.ch[i]? = some c →
        (r.drop (6 + 7 * i)).take 7 =
          (match c.lastReading with
            | some m => 0x01 :: bytes32 (bits32 m)
            | none => [0x00, 0x00, 0x00, 0x00, 0x00]) ++ [BitVec.ofNat 8 c.stage.val, BitVec.ofNat 8 c.dutyOut]

/-- R59, R63: a command that needs the lock waits while the lock is held; once it is free the waiting commands run one at a time in
arrival order, before anything else the block does. The queue is the model's (log 7). -/
def Obligations.WaitingCommandsServed : Prop :=
  (∀ (i : Instr) (s : State), takesLock i = true → i.wellFormed s.par s.chanCount = true → s.lock ≠ .free →
    exec i s = .next { s with waiting := s.waiting ++ [.cmd i] }) ∧
  ∀ (s : State) (is : List Instr), s.lock = .free → s.waiting = is.map .cmd →
    (∀ i ∈ is, takesLock i = true ∧ i.wellFormed s.par s.chanCount = true) →
    stepN is.length s = execAll is { s with waiting := [] }

/-! ### The background engine -/

/-- R120, R121, R59: at a cycle start the engine takes the lock and stands at channel 0; after the last channel it hands over the ready bit,
waits again and releases the lock. The driver's answer is scripted (log 2). -/
def Obligations.CycleStartAndEnd : Prop :=
  ∀ s : State, s.txn = none →
    (∀ rest, s.seq = .wait → s.lock = .free → s.waiting = [] → s.running = true → 1 ≤ s.chanCount →
      s.inbox = .cycleStart :: rest → step s = .next { s with inbox := rest, lock := .engine, seq := .cycle 0 }) ∧
    (∀ ok acts rdy, s.seq = .finish → s.lock = .engine → s.env.act = ok :: acts →
      rdy = (s.loop == .runEn && readiness s.par s.ch) →
      step s = .next { s with
        readyOut := rdy
        events := s.events ++ .ready rdy :: readyLog rdy ok
        seq := .wait
        lock := .free
        env := { s.env with act := acts } })

/-- R101, R115, R120, R121, R114: STOP observed at a cycle start, during the wait between cycles, on entering a response wait or during one:
the engine exits with zero outputs and no reset or record of the attempt, and a waiting STOP is answered. Where the engine looks is the
model's reading (log 6). -/
def Obligations.StopObserved : Prop :=
  ∀ s : State, s.mode = .background → s.running = false →
    (∀ rest, takesInput s → s.seq = .wait → s.txn = none → s.lock = .free →
      s.inbox = .poll :: rest ∨ s.inbox = .cycleStart :: rest →
      ∃ es v, zeroesOutputs s.chanCount es ∧ onlyActDrawn s.env v ∧
        step s = .next (exitedState { s with inbox := rest } es v)) ∧
    (∀ rest k t, takesInput s → s.seq = .cycle k → s.txn = some t → s.inbox = .poll :: rest ∨ s.inbox = .timeout :: rest →
      ∃ es v, zeroesOutputs s.chanCount es ∧ onlyActDrawn s.env v ∧
        step s = .next (exitedState { s with inbox := rest } es v)) ∧
    (∀ k t, s.waiting = [] ∨ s.lock ≠ .free → s.seq = .cycle k → s.txn = some t → t.sent = false →
      ∃ es v, zeroesOutputs s.chanCount es ∧ onlyActDrawn s.env v ∧
        step s = .next (exitedState { s with rxbuf := [], events := s.events ++ [.tx t.req] } es v))

/-- R114: when the grace period ends first, STOP is answered STOP_GRACE_EXPIRED and its request stands. -/
def Obligations.GraceExpiryAnswered : Prop :=
  ∀ (s : State) (rest : List Input), takesInput s → s.inbox = .graceOver :: rest → s.stopWait = true →
    step s = .next { s with inbox := rest, stopWait := false, replies := s.replies ++ [[0x14]] }

/-! ### The machine as a whole -/

/-- R74, R84, R100, R30: where an instruction is fetched, a step is its meaning: a host message, a request to transmit, or the bytes of an
awaited response, taken out of the receive buffer; bytes that complete no awaited response only lengthen the buffer. (A request about to be
transmitted once STOP has been asked is the clause of StopObserved. That a response which completes is executed although STOP has been
asked, the third clause, is the model's reading of R101: log 6.) -/
def Obligations.StepRunsDecoded : Prop :=
  ∀ s : State,
    (∀ i m rest, takesInput s → s.inbox = .host m :: rest → decode .host m = .ok i →
      step s = exec i { s with inbox := rest }) ∧
    (∀ i t, s.waiting = [] ∨ s.lock ≠ .free → s.mode ≠ .background ∨ s.running = true → s.txn = some t → t.sent = false →
      decode .tx t.req = .ok i → step s = exec i s) ∧
    (∀ i t bs rest, takesInput s → s.txn = some t → s.inbox = .bus bs :: rest →
      t.len ≤ (s.rxbuf ++ bs).length → decode (if t.len = 8 then .rx6 else .rx3) ((s.rxbuf ++ bs).take t.len) = .ok i →
      step s = exec i { s with inbox := rest, rxbuf := (s.rxbuf ++ bs).drop t.len }) ∧
    (∀ bs rest, takesInput s → s.inbox = .bus bs :: rest → (∀ t, s.txn = some t → (s.rxbuf ++ bs).length < t.len) →
      step s = .next { s with inbox := rest, rxbuf := s.rxbuf ++ bs })

/-- R130: no instruction and no step stops the block. -/
def Obligations.NothingStopsTheBlock : Prop :=
  (∀ (i : Instr) (s : State), ∃ t, exec i s = .next t) ∧ ∀ s : State, ∃ t, step s = .next t

/-- R21, R24: the transitions of the loop, TERMINATED final, the mode written only by the START that leaves IDLE. -/
def Obligations.LoopTransitions : Prop :=
  (∀ s t : State, seqInv s → step s = .next t →
    t.loop = s.loop ∨ (s.loop = .idle ∧ t.loop = .runDis) ∨ (s.loop = .runDis ∧ t.loop = .runEn) ∨
      (s.loop = .runEn ∧ t.loop = .runDis) ∨ ((s.loop = .runDis ∨ s.loop = .runEn) ∧ t.loop = .terminated)) ∧
  ∀ s t : State, step s = .next t →
    (s.loop = .terminated → t.loop = .terminated) ∧ (t.mode ≠ s.mode → s.loop = .idle ∧ t.loop = .runDis)

/-- R33, R34, R35, R9: no step changes a parameter, the number of channels, or a channel's index or address. -/
def Obligations.ConfigurationConstant : Prop :=
  ∀ s t : State, step s = .next t →
    t.par = s.par ∧ (t.ch.map fun c => (c.index, c.addr)) = s.ch.map fun c => (c.index, c.addr)

/-- R32, R69: the event history and the answers only grow, and the time source never goes back (R137). -/
def Obligations.HistoryOnlyGrows : Prop :=
  ∀ s t : State, step s = .next t → s.events <+: t.events ∧ s.replies <+: t.replies ∧ s.env.clock ≤ t.env.clock

/-- R32: nothing in the block reads the event history. -/
def Obligations.EventHistoryUnread : Prop :=
  ∀ (e : List Event) (s : State), step (s.prependEvents e) = mapNext (State.prependEvents e) (step s)

/-- R45 items 4 to 6, R22: kept by every step. -/
def Obligations.ControlInvariantKept : Prop := ∀ s t : State, controlInv s → step s = .next t → controlInv t

/-- R59, R28, R31, R139, R23: the lock, the sequencer, the transaction and the mode stay consistent under every step. -/
def Obligations.SequencerInvariantKept : Prop := ∀ s t : State, seqInv s → step s = .next t → seqInv t

/-- R45 items 2 and 3, R36, R37, under R9's defaults: kept by every step. -/
def Obligations.NumericInvariantKept : Prop := ∀ s t : State, numericInv s → step s = .next t → numericInv t

/-- R46, R142: the invariants hold after a reset: the numeric one under R9's defaults with any open parameters and every configuration that
reset accepts, those that do not speak of the numbers after a reset from any parameters and configuration; and all of them at
`State.reset`, whose configuration and open parameters are the model's (log 1, log 14). -/
def Obligations.InvariantsAtReset : Prop :=
  (∀ (o : OpenParams) (n : Nat) (cfg : List ChanCfg), resetLegal (Params.defaultWith o) n cfg = true →
    numericInv (State.ofConfig (Params.defaultWith o) cfg)) ∧
  (∀ (p : Params) (cfg : List ChanCfg), controlInv (State.ofConfig p cfg) ∧ seqInv (State.ofConfig p cfg) ∧
    indexInv (State.ofConfig p cfg)) ∧
  numericInv State.reset ∧ controlInv State.reset ∧ seqInv State.reset ∧ indexInv State.reset

/-- R69, R114: a step keeps the number of messages answered, waiting and still to come: it neither loses nor invents one. That a waiting
message is answered in the end is not said (log 5: no liveness); the inbox and the list of answers are the model's (log 5, 15). -/
def Obligations.NoMessageLostOrInvented : Prop :=
  ∀ s t : State, seqInv s → step s = .next t → messageLedger t = messageLedger s

/-- R126: a duty lane changes only at a duty command for its channel, and the ready line only at a ready command, to the last value
commanded. -/
def Obligations.LanesFollowCommands : Prop :=
  ∀ s t : State, step s = .next t →
    ∃ es, t.events = s.events ++ es ∧ t.readyOut = (readyEvents es).getLast?.getD s.readyOut ∧
      ∀ (i : Nat) (c : Channel), s.ch[i]? = some c → ∃ c', t.ch[i]? = some c' ∧
        c'.dutyOut = (((dutyEvents es).filter fun x => x.1 == i).getLast?.map Prod.snd).getD c.dutyOut

/-- R125: the block commands ready 1 only with control enabled and every channel in its readiness band. -/
def Obligations.ReadyOnlyWhenReady : Prop :=
  ∀ s t : State, ∀ es : List Event, step s = .next t → t.events = s.events ++ es → Event.ready true ∈ es →
    t.loop = .runEn ∧ t.readyOut = true ∧ readiness t.par t.ch = true

/-- R142, R46: which configurations reset refuses, and every piece of the spec's state after the others. That a finite value which is no
value of `P_FMT` is accepted and stored unrounded is the model's choice (log 26); so is that a NaN or infinite parameter is no ground to refuse
(log 27). -/
def Obligations.ResetValues : Prop :=
  ∀ (p : Params) (n : Nat) (cfg : List ChanCfg),
    (State.construct p n cfg = none ↔ ¬ (1 ≤ n ∧ cfg.length = n ∧ ∀ c ∈ cfg, p.addrMin ≤ c.addr ∧ c.addr ≤ p.addrMax ∧
      fIsFinite c.kp = true ∧ fIsFinite c.ki = true ∧ fIsFinite c.kd = true ∧ fIsFinite c.sp = true)) ∧
    ∀ s, State.construct p n cfg = some s →
      s.par = p ∧ s.chanCount = n ∧ s.loop = .idle ∧ s.enabled = false ∧ s.running = false ∧ s.mode = .unset ∧
      s.readyOut = false ∧ s.lock = .free ∧ s.seq = .stopped ∧ s.crcHost = 0xFFFF ∧ s.rxbuf = [] ∧ s.txn = none ∧
      s.events = [] ∧
      ∀ (i : Nat) (c : ChanCfg), cfg[i]? = some c → s.ch[i]? = some {
        index := i, addr := c.addr, kp := c.kp, ki := c.ki, kd := c.kd, sp := c.sp
        stageT := ⟨fMul p.fmt c.sp p.stageFrac.q0, fMul p.fmt c.sp p.stageFrac.q1, fMul p.fmt c.sp p.stageFrac.q2,
          fMul p.fmt c.sp p.stageFrac.q3⟩
        stage := 0, holdSince := none, iAcc := .fin false 0 0, prevErr := .fin false 0 0, lastReading := none, dutyOut := 0 }

/-- R130: a command refused with ILLEGAL_COMMAND, BAD_LENGTH, BAD_OPERAND or WRONG_STATE has no effect but its answer. -/
def Obligations.RefusalWithoutEffect : Prop :=
  ∀ (i : Instr) (s t : State) (code : Byte), exec i s = .next t → t.replies = s.replies ++ [[code]] →
    code = 0x10 ∨ code = 0x11 ∨ code = 0x12 ∨ code = 0x13 → t = { s with replies := s.replies ++ [[code]] }

/-- R61, R67, R132: while a cycle of the engine holds the lock, no step changes a gain, a setpoint or a stage target of any channel. -/
def Obligations.CycleSeesOneConfiguration : Prop :=
  ∀ s t : State, seqInv s → s.lock = .engine → step s = .next t →
    (t.ch.map fun c => (c.kp, c.ki, c.kd, c.sp, c.stageT)) = s.ch.map fun c => (c.kp, c.ki, c.kd, c.sp, c.stageT)

/-- R39, R106: while control stays enabled no step lowers a channel's stage, or raises it by more than one. -/
def Obligations.StageNeverDecreases : Prop :=
  ∀ s t : State, s.loop = .runEn → step s = .next t → t.loop = .runEn →
    ∀ (i : Nat) (c : Channel), s.ch[i]? = some c → ∃ c', t.ch[i]? = some c' ∧ c.stage.val ≤ c'.stage.val ∧ c'.stage.val ≤ c.stage.val + 1
end

