-- ==== Sys2Proof/Laws/State.lean ====
section
/-! SUPPORT. One lemma per field per update of the state (true by unfolding the update once), so that no later proof unfolds a record
update; and for operations that loop, the lemma that says what a loop keeps. -/

namespace Sys2Proof.Machine

@[simp] theorem addEvent_par (e : Event) (s : State) : (addEvent e s).par = s.par := rfl
@[simp] theorem addEvent_loop (e : Event) (s : State) : (addEvent e s).loop = s.loop := rfl
@[simp] theorem addEvent_enabled (e : Event) (s : State) : (addEvent e s).enabled = s.enabled := rfl
@[simp] theorem addEvent_running (e : Event) (s : State) : (addEvent e s).running = s.running := rfl
@[simp] theorem addEvent_mode (e : Event) (s : State) : (addEvent e s).mode = s.mode := rfl
@[simp] theorem addEvent_readyOut (e : Event) (s : State) : (addEvent e s).readyOut = s.readyOut := rfl
@[simp] theorem addEvent_lock (e : Event) (s : State) : (addEvent e s).lock = s.lock := rfl
@[simp] theorem addEvent_seq (e : Event) (s : State) : (addEvent e s).seq = s.seq := rfl
@[simp] theorem addEvent_crcHost (e : Event) (s : State) : (addEvent e s).crcHost = s.crcHost := rfl
@[simp] theorem addEvent_rxbuf (e : Event) (s : State) : (addEvent e s).rxbuf = s.rxbuf := rfl
@[simp] theorem addEvent_txn (e : Event) (s : State) : (addEvent e s).txn = s.txn := rfl
@[simp] theorem addEvent_ch (e : Event) (s : State) : (addEvent e s).ch = s.ch := rfl
@[simp] theorem addEvent_replies (e : Event) (s : State) : (addEvent e s).replies = s.replies := rfl
@[simp] theorem addEvent_inbox (e : Event) (s : State) : (addEvent e s).inbox = s.inbox := rfl
@[simp] theorem addEvent_waiting (e : Event) (s : State) : (addEvent e s).waiting = s.waiting := rfl
@[simp] theorem addEvent_stopWait (e : Event) (s : State) : (addEvent e s).stopWait = s.stopWait := rfl
@[simp] theorem addEvent_env (e : Event) (s : State) : (addEvent e s).env = s.env := rfl

@[simp] theorem logRecord_par (e : LogRecord) (s : State) : (logRecord e s).par = s.par := rfl
@[simp] theorem logRecord_loop (e : LogRecord) (s : State) : (logRecord e s).loop = s.loop := rfl
@[simp] theorem logRecord_enabled (e : LogRecord) (s : State) : (logRecord e s).enabled = s.enabled := rfl
@[simp] theorem logRecord_running (e : LogRecord) (s : State) : (logRecord e s).running = s.running := rfl
@[simp] theorem logRecord_mode (e : LogRecord) (s : State) : (logRecord e s).mode = s.mode := rfl
@[simp] theorem logRecord_readyOut (e : LogRecord) (s : State) : (logRecord e s).readyOut = s.readyOut := rfl
@[simp] theorem logRecord_lock (e : LogRecord) (s : State) : (logRecord e s).lock = s.lock := rfl
@[simp] theorem logRecord_seq (e : LogRecord) (s : State) : (logRecord e s).seq = s.seq := rfl
@[simp] theorem logRecord_crcHost (e : LogRecord) (s : State) : (logRecord e s).crcHost = s.crcHost := rfl
@[simp] theorem logRecord_rxbuf (e : LogRecord) (s : State) : (logRecord e s).rxbuf = s.rxbuf := rfl
@[simp] theorem logRecord_txn (e : LogRecord) (s : State) : (logRecord e s).txn = s.txn := rfl
@[simp] theorem logRecord_ch (e : LogRecord) (s : State) : (logRecord e s).ch = s.ch := rfl
@[simp] theorem logRecord_replies (e : LogRecord) (s : State) : (logRecord e s).replies = s.replies := rfl
@[simp] theorem logRecord_inbox (e : LogRecord) (s : State) : (logRecord e s).inbox = s.inbox := rfl
@[simp] theorem logRecord_waiting (e : LogRecord) (s : State) : (logRecord e s).waiting = s.waiting := rfl
@[simp] theorem logRecord_stopWait (e : LogRecord) (s : State) : (logRecord e s).stopWait = s.stopWait := rfl
@[simp] theorem logRecord_env (e : LogRecord) (s : State) : (logRecord e s).env = s.env := rfl

@[simp] theorem respondOk_par (d : List Byte) (s : State) : (respondOk d s).par = s.par := rfl
@[simp] theorem respondOk_loop (d : List Byte) (s : State) : (respondOk d s).loop = s.loop := rfl
@[simp] theorem respondOk_enabled (d : List Byte) (s : State) : (respondOk d s).enabled = s.enabled := rfl
@[simp] theorem respondOk_running (d : List Byte) (s : State) : (respondOk d s).running = s.running := rfl
@[simp] theorem respondOk_mode (d : List Byte) (s : State) : (respondOk d s).mode = s.mode := rfl
@[simp] theorem respondOk_readyOut (d : List Byte) (s : State) : (respondOk d s).readyOut = s.readyOut := rfl
@[simp] theorem respondOk_lock (d : List Byte) (s : State) : (respondOk d s).lock = s.lock := rfl
@[simp] theorem respondOk_seq (d : List Byte) (s : State) : (respondOk d s).seq = s.seq := rfl
@[simp] theorem respondOk_crcHost (d : List Byte) (s : State) : (respondOk d s).crcHost = s.crcHost := rfl
@[simp] theorem respondOk_rxbuf (d : List Byte) (s : State) : (respondOk d s).rxbuf = s.rxbuf := rfl
@[simp] theorem respondOk_txn (d : List Byte) (s : State) : (respondOk d s).txn = s.txn := rfl
@[simp] theorem respondOk_events (d : List Byte) (s : State) : (respondOk d s).events = s.events := rfl
@[simp] theorem respondOk_ch (d : List Byte) (s : State) : (respondOk d s).ch = s.ch := rfl
@[simp] theorem respondOk_inbox (d : List Byte) (s : State) : (respondOk d s).inbox = s.inbox := rfl
@[simp] theorem respondOk_waiting (d : List Byte) (s : State) : (respondOk d s).waiting = s.waiting := rfl
@[simp] theorem respondOk_stopWait (d : List Byte) (s : State) : (respondOk d s).stopWait = s.stopWait := rfl
@[simp] theorem respondOk_env (d : List Byte) (s : State) : (respondOk d s).env = s.env := rfl

@[simp] theorem raise_par (e : ResultCode) (s : State) : (raise e s).par = s.par := rfl
@[simp] theorem raise_loop (e : ResultCode) (s : State) : (raise e s).loop = s.loop := rfl
@[simp] theorem raise_enabled (e : ResultCode) (s : State) : (raise e s).enabled = s.enabled := rfl
@[simp] theorem raise_running (e : ResultCode) (s : State) : (raise e s).running = s.running := rfl
@[simp] theorem raise_mode (e : ResultCode) (s : State) : (raise e s).mode = s.mode := rfl
@[simp] theorem raise_readyOut (e : ResultCode) (s : State) : (raise e s).readyOut = s.readyOut := rfl
@[simp] theorem raise_lock (e : ResultCode) (s : State) : (raise e s).lock = s.lock := rfl
@[simp] theorem raise_seq (e : ResultCode) (s : State) : (raise e s).seq = s.seq := rfl
@[simp] theorem raise_crcHost (e : ResultCode) (s : State) : (raise e s).crcHost = s.crcHost := rfl
@[simp] theorem raise_rxbuf (e : ResultCode) (s : State) : (raise e s).rxbuf = s.rxbuf := rfl
@[simp] theorem raise_txn (e : ResultCode) (s : State) : (raise e s).txn = s.txn := rfl
@[simp] theorem raise_events (e : ResultCode) (s : State) : (raise e s).events = s.events := rfl
@[simp] theorem raise_ch (e : ResultCode) (s : State) : (raise e s).ch = s.ch := rfl
@[simp] theorem raise_inbox (e : ResultCode) (s : State) : (raise e s).inbox = s.inbox := rfl
@[simp] theorem raise_waiting (e : ResultCode) (s : State) : (raise e s).waiting = s.waiting := rfl
@[simp] theorem raise_stopWait (e : ResultCode) (s : State) : (raise e s).stopWait = s.stopWait := rfl
@[simp] theorem raise_env (e : ResultCode) (s : State) : (raise e s).env = s.env := rfl

@[simp] theorem acquire_par (o : Lock) (s : State) : (acquire o s).par = s.par := rfl
@[simp] theorem acquire_loop (o : Lock) (s : State) : (acquire o s).loop = s.loop := rfl
@[simp] theorem acquire_enabled (o : Lock) (s : State) : (acquire o s).enabled = s.enabled := rfl
@[simp] theorem acquire_running (o : Lock) (s : State) : (acquire o s).running = s.running := rfl
@[simp] theorem acquire_mode (o : Lock) (s : State) : (acquire o s).mode = s.mode := rfl
@[simp] theorem acquire_readyOut (o : Lock) (s : State) : (acquire o s).readyOut = s.readyOut := rfl
@[simp] theorem acquire_seq (o : Lock) (s : State) : (acquire o s).seq = s.seq := rfl
@[simp] theorem acquire_crcHost (o : Lock) (s : State) : (acquire o s).crcHost = s.crcHost := rfl
@[simp] theorem acquire_rxbuf (o : Lock) (s : State) : (acquire o s).rxbuf = s.rxbuf := rfl
@[simp] theorem acquire_txn (o : Lock) (s : State) : (acquire o s).txn = s.txn := rfl
@[simp] theorem acquire_events (o : Lock) (s : State) : (acquire o s).events = s.events := rfl
@[simp] theorem acquire_ch (o : Lock) (s : State) : (acquire o s).ch = s.ch := rfl
@[simp] theorem acquire_replies (o : Lock) (s : State) : (acquire o s).replies = s.replies := rfl
@[simp] theorem acquire_inbox (o : Lock) (s : State) : (acquire o s).inbox = s.inbox := rfl
@[simp] theorem acquire_waiting (o : Lock) (s : State) : (acquire o s).waiting = s.waiting := rfl
@[simp] theorem acquire_stopWait (o : Lock) (s : State) : (acquire o s).stopWait = s.stopWait := rfl
@[simp] theorem acquire_env (o : Lock) (s : State) : (acquire o s).env = s.env := rfl

@[simp] theorem release_par (s : State) : (release s).par = s.par := rfl
@[simp] theorem release_loop (s : State) : (release s).loop = s.loop := rfl
@[simp] theorem release_enabled (s : State) : (release s).enabled = s.enabled := rfl
@[simp] theorem release_running (s : State) : (release s).running = s.running := rfl
@[simp] theorem release_mode (s : State) : (release s).mode = s.mode := rfl
@[simp] theorem release_readyOut (s : State) : (release s).readyOut = s.readyOut := rfl
@[simp] theorem release_seq (s : State) : (release s).seq = s.seq := rfl
@[simp] theorem release_crcHost (s : State) : (release s).crcHost = s.crcHost := rfl
@[simp] theorem release_rxbuf (s : State) : (release s).rxbuf = s.rxbuf := rfl
@[simp] theorem release_txn (s : State) : (release s).txn = s.txn := rfl
@[simp] theorem release_events (s : State) : (release s).events = s.events := rfl
@[simp] theorem release_ch (s : State) : (release s).ch = s.ch := rfl
@[simp] theorem release_replies (s : State) : (release s).replies = s.replies := rfl
@[simp] theorem release_inbox (s : State) : (release s).inbox = s.inbox := rfl
@[simp] theorem release_waiting (s : State) : (release s).waiting = s.waiting := rfl
@[simp] theorem release_stopWait (s : State) : (release s).stopWait = s.stopWait := rfl
@[simp] theorem release_env (s : State) : (release s).env = s.env := rfl

@[simp] theorem modChan_par (i : Nat) (g : Channel → Channel) (s : State) : (modChan i g s).par = s.par := rfl
@[simp] theorem modChan_loop (i : Nat) (g : Channel → Channel) (s : State) : (modChan i g s).loop = s.loop := rfl
@[simp] theorem modChan_enabled (i : Nat) (g : Channel → Channel) (s : State) : (modChan i g s).enabled = s.enabled := rfl
@[simp] theorem modChan_running (i : Nat) (g : Channel → Channel) (s : State) : (modChan i g s).running = s.running := rfl
@[simp] theorem modChan_mode (i : Nat) (g : Channel → Channel) (s : State) : (modChan i g s).mode = s.mode := rfl
@[simp] theorem modChan_readyOut (i : Nat) (g : Channel → Channel) (s : State) : (modChan i g s).readyOut = s.readyOut := rfl
@[simp] theorem modChan_lock (i : Nat) (g : Channel → Channel) (s : State) : (modChan i g s).lock = s.lock := rfl
@[simp] theorem modChan_seq (i : Nat) (g : Channel → Channel) (s : State) : (modChan i g s).seq = s.seq := rfl
@[simp] theorem modChan_crcHost (i : Nat) (g : Channel → Channel) (s : State) : (modChan i g s).crcHost = s.crcHost := rfl
@[simp] theorem modChan_rxbuf (i : Nat) (g : Channel → Channel) (s : State) : (modChan i g s).rxbuf = s.rxbuf := rfl
@[simp] theorem modChan_txn (i : Nat) (g : Channel → Channel) (s : State) : (modChan i g s).txn = s.txn := rfl
@[simp] theorem modChan_events (i : Nat) (g : Channel → Channel) (s : State) : (modChan i g s).events = s.events := rfl
@[simp] theorem modChan_replies (i : Nat) (g : Channel → Channel) (s : State) : (modChan i g s).replies = s.replies := rfl
@[simp] theorem modChan_inbox (i : Nat) (g : Channel → Channel) (s : State) : (modChan i g s).inbox = s.inbox := rfl
@[simp] theorem modChan_waiting (i : Nat) (g : Channel → Channel) (s : State) : (modChan i g s).waiting = s.waiting := rfl
@[simp] theorem modChan_stopWait (i : Nat) (g : Channel → Channel) (s : State) : (modChan i g s).stopWait = s.stopWait := rfl
@[simp] theorem modChan_env (i : Nat) (g : Channel → Channel) (s : State) : (modChan i g s).env = s.env := rfl

@[simp] theorem rxFlush_par (s : State) : (rxFlush s).par = s.par := rfl
@[simp] theorem rxFlush_loop (s : State) : (rxFlush s).loop = s.loop := rfl
@[simp] theorem rxFlush_enabled (s : State) : (rxFlush s).enabled = s.enabled := rfl
@[simp] theorem rxFlush_running (s : State) : (rxFlush s).running = s.running := rfl
@[simp] theorem rxFlush_mode (s : State) : (rxFlush s).mode = s.mode := rfl
@[simp] theorem rxFlush_readyOut (s : State) : (rxFlush s).readyOut = s.readyOut := rfl
@[simp] theorem rxFlush_lock (s : State) : (rxFlush s).lock = s.lock := rfl
@[simp] theorem rxFlush_seq (s : State) : (rxFlush s).seq = s.seq := rfl
@[simp] theorem rxFlush_crcHost (s : State) : (rxFlush s).crcHost = s.crcHost := rfl
@[simp] theorem rxFlush_txn (s : State) : (rxFlush s).txn = s.txn := rfl
@[simp] theorem rxFlush_events (s : State) : (rxFlush s).events = s.events := rfl
@[simp] theorem rxFlush_ch (s : State) : (rxFlush s).ch = s.ch := rfl
@[simp] theorem rxFlush_replies (s : State) : (rxFlush s).replies = s.replies := rfl
@[simp] theorem rxFlush_inbox (s : State) : (rxFlush s).inbox = s.inbox := rfl
@[simp] theorem rxFlush_waiting (s : State) : (rxFlush s).waiting = s.waiting := rfl
@[simp] theorem rxFlush_stopWait (s : State) : (rxFlush s).stopWait = s.stopWait := rfl
@[simp] theorem rxFlush_env (s : State) : (rxFlush s).env = s.env := rfl

@[simp] theorem txWrite_par (q : List Byte) (s : State) : (txWrite q s).par = s.par := rfl
@[simp] theorem txWrite_loop (q : List Byte) (s : State) : (txWrite q s).loop = s.loop := rfl
@[simp] theorem txWrite_enabled (q : List Byte) (s : State) : (txWrite q s).enabled = s.enabled := rfl
@[simp] theorem txWrite_running (q : List Byte) (s : State) : (txWrite q s).running = s.running := rfl
@[simp] theorem txWrite_mode (q : List Byte) (s : State) : (txWrite q s).mode = s.mode := rfl
@[simp] theorem txWrite_readyOut (q : List Byte) (s : State) : (txWrite q s).readyOut = s.readyOut := rfl
@[simp] theorem txWrite_lock (q : List Byte) (s : State) : (txWrite q s).lock = s.lock := rfl
@[simp] theorem txWrite_seq (q : List Byte) (s : State) : (txWrite q s).seq = s.seq := rfl
@[simp] theorem txWrite_crcHost (q : List Byte) (s : State) : (txWrite q s).crcHost = s.crcHost := rfl
@[simp] theorem txWrite_rxbuf (q : List Byte) (s : State) : (txWrite q s).rxbuf = s.rxbuf := rfl
@[simp] theorem txWrite_txn (q : List Byte) (s : State) : (txWrite q s).txn = s.txn := rfl
@[simp] theorem txWrite_ch (q : List Byte) (s : State) : (txWrite q s).ch = s.ch := rfl
@[simp] theorem txWrite_replies (q : List Byte) (s : State) : (txWrite q s).replies = s.replies := rfl
@[simp] theorem txWrite_inbox (q : List Byte) (s : State) : (txWrite q s).inbox = s.inbox := rfl
@[simp] theorem txWrite_waiting (q : List Byte) (s : State) : (txWrite q s).waiting = s.waiting := rfl
@[simp] theorem txWrite_stopWait (q : List Byte) (s : State) : (txWrite q s).stopWait = s.stopWait := rfl
@[simp] theorem txWrite_env (q : List Byte) (s : State) : (txWrite q s).env = s.env := rfl

@[simp] theorem transportReset_par (s : State) : (transportReset s).par = s.par := rfl
@[simp] theorem transportReset_loop (s : State) : (transportReset s).loop = s.loop := rfl
@[simp] theorem transportReset_enabled (s : State) : (transportReset s).enabled = s.enabled := rfl
@[simp] theorem transportReset_running (s : State) : (transportReset s).running = s.running := rfl
@[simp] theorem transportReset_mode (s : State) : (transportReset s).mode = s.mode := rfl
@[simp] theorem transportReset_readyOut (s : State) : (transportReset s).readyOut = s.readyOut := rfl
@[simp] theorem transportReset_lock (s : State) : (transportReset s).lock = s.lock := rfl
@[simp] theorem transportReset_seq (s : State) : (transportReset s).seq = s.seq := rfl
@[simp] theorem transportReset_crcHost (s : State) : (transportReset s).crcHost = s.crcHost := rfl
@[simp] theorem transportReset_txn (s : State) : (transportReset s).txn = s.txn := rfl
@[simp] theorem transportReset_ch (s : State) : (transportReset s).ch = s.ch := rfl
@[simp] theorem transportReset_replies (s : State) : (transportReset s).replies = s.replies := rfl
@[simp] theorem transportReset_inbox (s : State) : (transportReset s).inbox = s.inbox := rfl
@[simp] theorem transportReset_waiting (s : State) : (transportReset s).waiting = s.waiting := rfl
@[simp] theorem transportReset_stopWait (s : State) : (transportReset s).stopWait = s.stopWait := rfl
@[simp] theorem transportReset_env (s : State) : (transportReset s).env = s.env := rfl

@[simp] theorem recover_par (t : Txn) (c : Cause) (s : State) : (recover t c s).par = s.par := rfl
@[simp] theorem recover_loop (t : Txn) (c : Cause) (s : State) : (recover t c s).loop = s.loop := rfl
@[simp] theorem recover_enabled (t : Txn) (c : Cause) (s : State) : (recover t c s).enabled = s.enabled := rfl
@[simp] theorem recover_running (t : Txn) (c : Cause) (s : State) : (recover t c s).running = s.running := rfl
@[simp] theorem recover_mode (t : Txn) (c : Cause) (s : State) : (recover t c s).mode = s.mode := rfl
@[simp] theorem recover_readyOut (t : Txn) (c : Cause) (s : State) : (recover t c s).readyOut = s.readyOut := rfl
@[simp] theorem recover_lock (t : Txn) (c : Cause) (s : State) : (recover t c s).lock = s.lock := rfl
@[simp] theorem recover_seq (t : Txn) (c : Cause) (s : State) : (recover t c s).seq = s.seq := rfl
@[simp] theorem recover_crcHost (t : Txn) (c : Cause) (s : State) : (recover t c s).crcHost = s.crcHost := rfl
@[simp] theorem recover_txn (t : Txn) (c : Cause) (s : State) : (recover t c s).txn = s.txn := rfl
@[simp] theorem recover_ch (t : Txn) (c : Cause) (s : State) : (recover t c s).ch = s.ch := rfl
@[simp] theorem recover_replies (t : Txn) (c : Cause) (s : State) : (recover t c s).replies = s.replies := rfl
@[simp] theorem recover_inbox (t : Txn) (c : Cause) (s : State) : (recover t c s).inbox = s.inbox := rfl
@[simp] theorem recover_waiting (t : Txn) (c : Cause) (s : State) : (recover t c s).waiting = s.waiting := rfl
@[simp] theorem recover_stopWait (t : Txn) (c : Cause) (s : State) : (recover t c s).stopWait = s.stopWait := rfl
@[simp] theorem recover_env (t : Txn) (c : Cause) (s : State) : (recover t c s).env = s.env := rfl

@[simp] theorem closeTxn_par (s : State) : (closeTxn s).par = s.par := rfl
@[simp] theorem closeTxn_loop (s : State) : (closeTxn s).loop = s.loop := rfl
@[simp] theorem closeTxn_enabled (s : State) : (closeTxn s).enabled = s.enabled := rfl
@[simp] theorem closeTxn_running (s : State) : (closeTxn s).running = s.running := rfl
@[simp] theorem closeTxn_mode (s : State) : (closeTxn s).mode = s.mode := rfl
@[simp] theorem closeTxn_readyOut (s : State) : (closeTxn s).readyOut = s.readyOut := rfl
@[simp] theorem closeTxn_lock (s : State) : (closeTxn s).lock = s.lock := rfl
@[simp] theorem closeTxn_seq (s : State) : (closeTxn s).seq = s.seq := rfl
@[simp] theorem closeTxn_crcHost (s : State) : (closeTxn s).crcHost = s.crcHost := rfl
@[simp] theorem closeTxn_rxbuf (s : State) : (closeTxn s).rxbuf = s.rxbuf := rfl
@[simp] theorem closeTxn_events (s : State) : (closeTxn s).events = s.events := rfl
@[simp] theorem closeTxn_ch (s : State) : (closeTxn s).ch = s.ch := rfl
@[simp] theorem closeTxn_replies (s : State) : (closeTxn s).replies = s.replies := rfl
@[simp] theorem closeTxn_inbox (s : State) : (closeTxn s).inbox = s.inbox := rfl
@[simp] theorem closeTxn_waiting (s : State) : (closeTxn s).waiting = s.waiting := rfl
@[simp] theorem closeTxn_stopWait (s : State) : (closeTxn s).stopWait = s.stopWait := rfl
@[simp] theorem closeTxn_env (s : State) : (closeTxn s).env = s.env := rfl

@[simp] theorem transmit_par (t : Txn) (s : State) : (transmit t s).par = s.par := rfl
@[simp] theorem transmit_loop (t : Txn) (s : State) : (transmit t s).loop = s.loop := rfl
@[simp] theorem transmit_enabled (t : Txn) (s : State) : (transmit t s).enabled = s.enabled := rfl
@[simp] theorem transmit_running (t : Txn) (s : State) : (transmit t s).running = s.running := rfl
@[simp] theorem transmit_mode (t : Txn) (s : State) : (transmit t s).mode = s.mode := rfl
@[simp] theorem transmit_readyOut (t : Txn) (s : State) : (transmit t s).readyOut = s.readyOut := rfl
@[simp] theorem transmit_lock (t : Txn) (s : State) : (transmit t s).lock = s.lock := rfl
@[simp] theorem transmit_seq (t : Txn) (s : State) : (transmit t s).seq = s.seq := rfl
@[simp] theorem transmit_crcHost (t : Txn) (s : State) : (transmit t s).crcHost = s.crcHost := rfl
@[simp] theorem transmit_ch (t : Txn) (s : State) : (transmit t s).ch = s.ch := rfl
@[simp] theorem transmit_replies (t : Txn) (s : State) : (transmit t s).replies = s.replies := rfl
@[simp] theorem transmit_inbox (t : Txn) (s : State) : (transmit t s).inbox = s.inbox := rfl
@[simp] theorem transmit_waiting (t : Txn) (s : State) : (transmit t s).waiting = s.waiting := rfl
@[simp] theorem transmit_stopWait (t : Txn) (s : State) : (transmit t s).stopWait = s.stopWait := rfl
@[simp] theorem transmit_env (t : Txn) (s : State) : (transmit t s).env = s.env := rfl

@[simp] theorem enterLoop_par (l : Loop) (s : State) : (enterLoop l s).par = s.par := rfl
@[simp] theorem enterLoop_running (l : Loop) (s : State) : (enterLoop l s).running = s.running := rfl
@[simp] theorem enterLoop_mode (l : Loop) (s : State) : (enterLoop l s).mode = s.mode := rfl
@[simp] theorem enterLoop_readyOut (l : Loop) (s : State) : (enterLoop l s).readyOut = s.readyOut := rfl
@[simp] theorem enterLoop_lock (l : Loop) (s : State) : (enterLoop l s).lock = s.lock := rfl
@[simp] theorem enterLoop_seq (l : Loop) (s : State) : (enterLoop l s).seq = s.seq := rfl
@[simp] theorem enterLoop_crcHost (l : Loop) (s : State) : (enterLoop l s).crcHost = s.crcHost := rfl
@[simp] theorem enterLoop_rxbuf (l : Loop) (s : State) : (enterLoop l s).rxbuf = s.rxbuf := rfl
@[simp] theorem enterLoop_txn (l : Loop) (s : State) : (enterLoop l s).txn = s.txn := rfl
@[simp] theorem enterLoop_events (l : Loop) (s : State) : (enterLoop l s).events = s.events := rfl
@[simp] theorem enterLoop_ch (l : Loop) (s : State) : (enterLoop l s).ch = s.ch := rfl
@[simp] theorem enterLoop_replies (l : Loop) (s : State) : (enterLoop l s).replies = s.replies := rfl
@[simp] theorem enterLoop_inbox (l : Loop) (s : State) : (enterLoop l s).inbox = s.inbox := rfl
@[simp] theorem enterLoop_waiting (l : Loop) (s : State) : (enterLoop l s).waiting = s.waiting := rfl
@[simp] theorem enterLoop_stopWait (l : Loop) (s : State) : (enterLoop l s).stopWait = s.stopWait := rfl
@[simp] theorem enterLoop_env (l : Loop) (s : State) : (enterLoop l s).env = s.env := rfl

@[simp] theorem enterChan_par (k : Nat) (s : State) : (enterChan k s).par = s.par := rfl
@[simp] theorem enterChan_loop (k : Nat) (s : State) : (enterChan k s).loop = s.loop := rfl
@[simp] theorem enterChan_enabled (k : Nat) (s : State) : (enterChan k s).enabled = s.enabled := rfl
@[simp] theorem enterChan_running (k : Nat) (s : State) : (enterChan k s).running = s.running := rfl
@[simp] theorem enterChan_mode (k : Nat) (s : State) : (enterChan k s).mode = s.mode := rfl
@[simp] theorem enterChan_readyOut (k : Nat) (s : State) : (enterChan k s).readyOut = s.readyOut := rfl
@[simp] theorem enterChan_lock (k : Nat) (s : State) : (enterChan k s).lock = s.lock := rfl
@[simp] theorem enterChan_crcHost (k : Nat) (s : State) : (enterChan k s).crcHost = s.crcHost := rfl
@[simp] theorem enterChan_rxbuf (k : Nat) (s : State) : (enterChan k s).rxbuf = s.rxbuf := rfl
@[simp] theorem enterChan_txn (k : Nat) (s : State) : (enterChan k s).txn = s.txn := rfl
@[simp] theorem enterChan_events (k : Nat) (s : State) : (enterChan k s).events = s.events := rfl
@[simp] theorem enterChan_ch (k : Nat) (s : State) : (enterChan k s).ch = s.ch := rfl
@[simp] theorem enterChan_replies (k : Nat) (s : State) : (enterChan k s).replies = s.replies := rfl
@[simp] theorem enterChan_inbox (k : Nat) (s : State) : (enterChan k s).inbox = s.inbox := rfl
@[simp] theorem enterChan_waiting (k : Nat) (s : State) : (enterChan k s).waiting = s.waiting := rfl
@[simp] theorem enterChan_stopWait (k : Nat) (s : State) : (enterChan k s).stopWait = s.stopWait := rfl
@[simp] theorem enterChan_env (k : Nat) (s : State) : (enterChan k s).env = s.env := rfl

@[simp] theorem drawAct_par (s : State) : ((drawAct s).2).par = s.par := by unfold drawAct; split <;> rfl
@[simp] theorem drawAct_loop (s : State) : ((drawAct s).2).loop = s.loop := by unfold drawAct; split <;> rfl
@[simp] theorem drawAct_enabled (s : State) : ((drawAct s).2).enabled = s.enabled := by unfold drawAct; split <;> rfl
@[simp] theorem drawAct_running (s : State) : ((drawAct s).2).running = s.running := by unfold drawAct; split <;> rfl
@[simp] theorem drawAct_mode (s : State) : ((drawAct s).2).mode = s.mode := by unfold drawAct; split <;> rfl
@[simp] theorem drawAct_readyOut (s : State) : ((drawAct s).2).readyOut = s.readyOut := by unfold drawAct; split <;> rfl
@[simp] theorem drawAct_lock (s : State) : ((drawAct s).2).lock = s.lock := by unfold drawAct; split <;> rfl
@[simp] theorem drawAct_seq (s : State) : ((drawAct s).2).seq = s.seq := by unfold drawAct; split <;> rfl
@[simp] theorem drawAct_crcHost (s : State) : ((drawAct s).2).crcHost = s.crcHost := by unfold drawAct; split <;> rfl
@[simp] theorem drawAct_rxbuf (s : State) : ((drawAct s).2).rxbuf = s.rxbuf := by unfold drawAct; split <;> rfl
@[simp] theorem drawAct_txn (s : State) : ((drawAct s).2).txn = s.txn := by unfold drawAct; split <;> rfl
@[simp] theorem drawAct_events (s : State) : ((drawAct s).2).events = s.events := by unfold drawAct; split <;> rfl
@[simp] theorem drawAct_ch (s : State) : ((drawAct s).2).ch = s.ch := by unfold drawAct; split <;> rfl
@[simp] theorem drawAct_replies (s : State) : ((drawAct s).2).replies = s.replies := by unfold drawAct; split <;> rfl
@[simp] theorem drawAct_inbox (s : State) : ((drawAct s).2).inbox = s.inbox := by unfold drawAct; split <;> rfl
@[simp] theorem drawAct_waiting (s : State) : ((drawAct s).2).waiting = s.waiting := by unfold drawAct; split <;> rfl
@[simp] theorem drawAct_stopWait (s : State) : ((drawAct s).2).stopWait = s.stopWait := by unfold drawAct; split <;> rfl

@[simp] theorem drawSpawn_par (s : State) : ((drawSpawn s).2).par = s.par := by unfold drawSpawn; split <;> rfl
@[simp] theorem drawSpawn_loop (s : State) : ((drawSpawn s).2).loop = s.loop := by unfold drawSpawn; split <;> rfl
@[simp] theorem drawSpawn_enabled (s : State) : ((drawSpawn s).2).enabled = s.enabled := by unfold drawSpawn; split <;> rfl
@[simp] theorem drawSpawn_running (s : State) : ((drawSpawn s).2).running = s.running := by unfold drawSpawn; split <;> rfl
@[simp] theorem drawSpawn_mode (s : State) : ((drawSpawn s).2).mode = s.mode := by unfold drawSpawn; split <;> rfl
@[simp] theorem drawSpawn_readyOut (s : State) : ((drawSpawn s).2).readyOut = s.readyOut := by unfold drawSpawn; split <;> rfl
@[simp] theorem drawSpawn_lock (s : State) : ((drawSpawn s).2).lock = s.lock := by unfold drawSpawn; split <;> rfl
@[simp] theorem drawSpawn_seq (s : State) : ((drawSpawn s).2).seq = s.seq := by unfold drawSpawn; split <;> rfl
@[simp] theorem drawSpawn_crcHost (s : State) : ((drawSpawn s).2).crcHost = s.crcHost := by unfold drawSpawn; split <;> rfl
@[simp] theorem drawSpawn_rxbuf (s : State) : ((drawSpawn s).2).rxbuf = s.rxbuf := by unfold drawSpawn; split <;> rfl
@[simp] theorem drawSpawn_txn (s : State) : ((drawSpawn s).2).txn = s.txn := by unfold drawSpawn; split <;> rfl
@[simp] theorem drawSpawn_events (s : State) : ((drawSpawn s).2).events = s.events := by unfold drawSpawn; split <;> rfl
@[simp] theorem drawSpawn_ch (s : State) : ((drawSpawn s).2).ch = s.ch := by unfold drawSpawn; split <;> rfl
@[simp] theorem drawSpawn_replies (s : State) : ((drawSpawn s).2).replies = s.replies := by unfold drawSpawn; split <;> rfl
@[simp] theorem drawSpawn_inbox (s : State) : ((drawSpawn s).2).inbox = s.inbox := by unfold drawSpawn; split <;> rfl
@[simp] theorem drawSpawn_waiting (s : State) : ((drawSpawn s).2).waiting = s.waiting := by unfold drawSpawn; split <;> rfl
@[simp] theorem drawSpawn_stopWait (s : State) : ((drawSpawn s).2).stopWait = s.stopWait := by unfold drawSpawn; split <;> rfl

@[simp] theorem drawRx_par (s : State) : ((drawRx s).2).par = s.par := by unfold drawRx; split <;> rfl
@[simp] theorem drawRx_loop (s : State) : ((drawRx s).2).loop = s.loop := by unfold drawRx; split <;> rfl
@[simp] theorem drawRx_enabled (s : State) : ((drawRx s).2).enabled = s.enabled := by unfold drawRx; split <;> rfl
@[simp] theorem drawRx_running (s : State) : ((drawRx s).2).running = s.running := by unfold drawRx; split <;> rfl
@[simp] theorem drawRx_mode (s : State) : ((drawRx s).2).mode = s.mode := by unfold drawRx; split <;> rfl
@[simp] theorem drawRx_readyOut (s : State) : ((drawRx s).2).readyOut = s.readyOut := by unfold drawRx; split <;> rfl
@[simp] theorem drawRx_lock (s : State) : ((drawRx s).2).lock = s.lock := by unfold drawRx; split <;> rfl
@[simp] theorem drawRx_seq (s : State) : ((drawRx s).2).seq = s.seq := by unfold drawRx; split <;> rfl
@[simp] theorem drawRx_crcHost (s : State) : ((drawRx s).2).crcHost = s.crcHost := by unfold drawRx; split <;> rfl
@[simp] theorem drawRx_rxbuf (s : State) : ((drawRx s).2).rxbuf = s.rxbuf := by unfold drawRx; split <;> rfl
@[simp] theorem drawRx_txn (s : State) : ((drawRx s).2).txn = s.txn := by unfold drawRx; split <;> rfl
@[simp] theorem drawRx_events (s : State) : ((drawRx s).2).events = s.events := by unfold drawRx; split <;> rfl
@[simp] theorem drawRx_ch (s : State) : ((drawRx s).2).ch = s.ch := by unfold drawRx; split <;> rfl
@[simp] theorem drawRx_replies (s : State) : ((drawRx s).2).replies = s.replies := by unfold drawRx; split <;> rfl
@[simp] theorem drawRx_inbox (s : State) : ((drawRx s).2).inbox = s.inbox := by unfold drawRx; split <;> rfl
@[simp] theorem drawRx_waiting (s : State) : ((drawRx s).2).waiting = s.waiting := by unfold drawRx; split <;> rfl
@[simp] theorem drawRx_stopWait (s : State) : ((drawRx s).2).stopWait = s.stopWait := by unfold drawRx; split <;> rfl

@[simp] theorem readNow_par (s : State) : ((readNow s).2).par = s.par := by unfold readNow; split <;> rfl
@[simp] theorem readNow_loop (s : State) : ((readNow s).2).loop = s.loop := by unfold readNow; split <;> rfl
@[simp] theorem readNow_enabled (s : State) : ((readNow s).2).enabled = s.enabled := by unfold readNow; split <;> rfl
@[simp] theorem readNow_running (s : State) : ((readNow s).2).running = s.running := by unfold readNow; split <;> rfl
@[simp] theorem readNow_mode (s : State) : ((readNow s).2).mode = s.mode := by unfold readNow; split <;> rfl
@[simp] theorem readNow_readyOut (s : State) : ((readNow s).2).readyOut = s.readyOut := by unfold readNow; split <;> rfl
@[simp] theorem readNow_lock (s : State) : ((readNow s).2).lock = s.lock := by unfold readNow; split <;> rfl
@[simp] theorem readNow_seq (s : State) : ((readNow s).2).seq = s.seq := by unfold readNow; split <;> rfl
@[simp] theorem readNow_crcHost (s : State) : ((readNow s).2).crcHost = s.crcHost := by unfold readNow; split <;> rfl
@[simp] theorem readNow_rxbuf (s : State) : ((readNow s).2).rxbuf = s.rxbuf := by unfold readNow; split <;> rfl
@[simp] theorem readNow_txn (s : State) : ((readNow s).2).txn = s.txn := by unfold readNow; split <;> rfl
@[simp] theorem readNow_events (s : State) : ((readNow s).2).events = s.events := by unfold readNow; split <;> rfl
@[simp] theorem readNow_ch (s : State) : ((readNow s).2).ch = s.ch := by unfold readNow; split <;> rfl
@[simp] theorem readNow_replies (s : State) : ((readNow s).2).replies = s.replies := by unfold readNow; split <;> rfl
@[simp] theorem readNow_inbox (s : State) : ((readNow s).2).inbox = s.inbox := by unfold readNow; split <;> rfl
@[simp] theorem readNow_waiting (s : State) : ((readNow s).2).waiting = s.waiting := by unfold readNow; split <;> rfl
@[simp] theorem readNow_stopWait (s : State) : ((readNow s).2).stopWait = s.stopWait := by unfold readNow; split <;> rfl

@[simp] theorem takeRx_par (n : Nat) (s : State) : ((takeRx n s).2).par = s.par := by unfold takeRx; split <;> rfl
@[simp] theorem takeRx_loop (n : Nat) (s : State) : ((takeRx n s).2).loop = s.loop := by unfold takeRx; split <;> rfl
@[simp] theorem takeRx_enabled (n : Nat) (s : State) : ((takeRx n s).2).enabled = s.enabled := by unfold takeRx; split <;> rfl
@[simp] theorem takeRx_running (n : Nat) (s : State) : ((takeRx n s).2).running = s.running := by unfold takeRx; split <;> rfl
@[simp] theorem takeRx_mode (n : Nat) (s : State) : ((takeRx n s).2).mode = s.mode := by unfold takeRx; split <;> rfl
@[simp] theorem takeRx_readyOut (n : Nat) (s : State) : ((takeRx n s).2).readyOut = s.readyOut := by unfold takeRx; split <;> rfl
@[simp] theorem takeRx_lock (n : Nat) (s : State) : ((takeRx n s).2).lock = s.lock := by unfold takeRx; split <;> rfl
@[simp] theorem takeRx_seq (n : Nat) (s : State) : ((takeRx n s).2).seq = s.seq := by unfold takeRx; split <;> rfl
@[simp] theorem takeRx_crcHost (n : Nat) (s : State) : ((takeRx n s).2).crcHost = s.crcHost := by unfold takeRx; split <;> rfl
@[simp] theorem takeRx_txn (n : Nat) (s : State) : ((takeRx n s).2).txn = s.txn := by unfold takeRx; split <;> rfl
@[simp] theorem takeRx_events (n : Nat) (s : State) : ((takeRx n s).2).events = s.events := by unfold takeRx; split <;> rfl
@[simp] theorem takeRx_ch (n : Nat) (s : State) : ((takeRx n s).2).ch = s.ch := by unfold takeRx; split <;> rfl
@[simp] theorem takeRx_replies (n : Nat) (s : State) : ((takeRx n s).2).replies = s.replies := by unfold takeRx; split <;> rfl
@[simp] theorem takeRx_inbox (n : Nat) (s : State) : ((takeRx n s).2).inbox = s.inbox := by unfold takeRx; split <;> rfl
@[simp] theorem takeRx_waiting (n : Nat) (s : State) : ((takeRx n s).2).waiting = s.waiting := by unfold takeRx; split <;> rfl
@[simp] theorem takeRx_stopWait (n : Nat) (s : State) : ((takeRx n s).2).stopWait = s.stopWait := by unfold takeRx; split <;> rfl
@[simp] theorem takeRx_env (n : Nat) (s : State) : ((takeRx n s).2).env = s.env := by unfold takeRx; split <;> rfl

@[simp] theorem rxExact_par (n : Nat) (s : State) : ((rxExact n s).2).par = s.par := by simp [rxExact]
@[simp] theorem rxExact_loop (n : Nat) (s : State) : ((rxExact n s).2).loop = s.loop := by simp [rxExact]
@[simp] theorem rxExact_enabled (n : Nat) (s : State) : ((rxExact n s).2).enabled = s.enabled := by simp [rxExact]
@[simp] theorem rxExact_running (n : Nat) (s : State) : ((rxExact n s).2).running = s.running := by simp [rxExact]
@[simp] theorem rxExact_mode (n : Nat) (s : State) : ((rxExact n s).2).mode = s.mode := by simp [rxExact]
@[simp] theorem rxExact_readyOut (n : Nat) (s : State) : ((rxExact n s).2).readyOut = s.readyOut := by simp [rxExact]
@[simp] theorem rxExact_lock (n : Nat) (s : State) : ((rxExact n s).2).lock = s.lock := by simp [rxExact]
@[simp] theorem rxExact_seq (n : Nat) (s : State) : ((rxExact n s).2).seq = s.seq := by simp [rxExact]
@[simp] theorem rxExact_crcHost (n : Nat) (s : State) : ((rxExact n s).2).crcHost = s.crcHost := by simp [rxExact]
@[simp] theorem rxExact_txn (n : Nat) (s : State) : ((rxExact n s).2).txn = s.txn := by simp [rxExact]
@[simp] theorem rxExact_events (n : Nat) (s : State) : ((rxExact n s).2).events = s.events := by simp [rxExact]
@[simp] theorem rxExact_ch (n : Nat) (s : State) : ((rxExact n s).2).ch = s.ch := by simp [rxExact]
@[simp] theorem rxExact_replies (n : Nat) (s : State) : ((rxExact n s).2).replies = s.replies := by simp [rxExact]
@[simp] theorem rxExact_inbox (n : Nat) (s : State) : ((rxExact n s).2).inbox = s.inbox := by simp [rxExact]
@[simp] theorem rxExact_waiting (n : Nat) (s : State) : ((rxExact n s).2).waiting = s.waiting := by simp [rxExact]
@[simp] theorem rxExact_stopWait (n : Nat) (s : State) : ((rxExact n s).2).stopWait = s.stopWait := by simp [rxExact]

@[simp] theorem setDuty_par (i d : Nat) (s : State) : (setDuty i d s).par = s.par := by unfold setDuty; dsimp only; split <;> simp
@[simp] theorem setDuty_loop (i d : Nat) (s : State) : (setDuty i d s).loop = s.loop := by unfold setDuty; dsimp only; split <;> simp
@[simp] theorem setDuty_enabled (i d : Nat) (s : State) : (setDuty i d s).enabled = s.enabled := by unfold setDuty; dsimp only; split <;> simp
@[simp] theorem setDuty_running (i d : Nat) (s : State) : (setDuty i d s).running = s.running := by unfold setDuty; dsimp only; split <;> simp
@[simp] theorem setDuty_mode (i d : Nat) (s : State) : (setDuty i d s).mode = s.mode := by unfold setDuty; dsimp only; split <;> simp
@[simp] theorem setDuty_readyOut (i d : Nat) (s : State) : (setDuty i d s).readyOut = s.readyOut := by unfold setDuty; dsimp only; split <;> simp
@[simp] theorem setDuty_lock (i d : Nat) (s : State) : (setDuty i d s).lock = s.lock := by unfold setDuty; dsimp only; split <;> simp
@[simp] theorem setDuty_seq (i d : Nat) (s : State) : (setDuty i d s).seq = s.seq := by unfold setDuty; dsimp only; split <;> simp
@[simp] theorem setDuty_crcHost (i d : Nat) (s : State) : (setDuty i d s).crcHost = s.crcHost := by unfold setDuty; dsimp only; split <;> simp
@[simp] theorem setDuty_rxbuf (i d : Nat) (s : State) : (setDuty i d s).rxbuf = s.rxbuf := by unfold setDuty; dsimp only; split <;> simp
@[simp] theorem setDuty_txn (i d : Nat) (s : State) : (setDuty i d s).txn = s.txn := by unfold setDuty; dsimp only; split <;> simp
@[simp] theorem setDuty_replies (i d : Nat) (s : State) : (setDuty i d s).replies = s.replies := by unfold setDuty; dsimp only; split <;> simp
@[simp] theorem setDuty_inbox (i d : Nat) (s : State) : (setDuty i d s).inbox = s.inbox := by unfold setDuty; dsimp only; split <;> simp
@[simp] theorem setDuty_waiting (i d : Nat) (s : State) : (setDuty i d s).waiting = s.waiting := by unfold setDuty; dsimp only; split <;> simp
@[simp] theorem setDuty_stopWait (i d : Nat) (s : State) : (setDuty i d s).stopWait = s.stopWait := by unfold setDuty; dsimp only; split <;> simp

@[simp] theorem setReady_par (b : Bool) (s : State) : (setReady b s).par = s.par := by unfold setReady; dsimp only; split <;> simp
@[simp] theorem setReady_loop (b : Bool) (s : State) : (setReady b s).loop = s.loop := by unfold setReady; dsimp only; split <;> simp
@[simp] theorem setReady_enabled (b : Bool) (s : State) : (setReady b s).enabled = s.enabled := by unfold setReady; dsimp only; split <;> simp
@[simp] theorem setReady_running (b : Bool) (s : State) : (setReady b s).running = s.running := by unfold setReady; dsimp only; split <;> simp
@[simp] theorem setReady_mode (b : Bool) (s : State) : (setReady b s).mode = s.mode := by unfold setReady; dsimp only; split <;> simp
@[simp] theorem setReady_lock (b : Bool) (s : State) : (setReady b s).lock = s.lock := by unfold setReady; dsimp only; split <;> simp
@[simp] theorem setReady_seq (b : Bool) (s : State) : (setReady b s).seq = s.seq := by unfold setReady; dsimp only; split <;> simp
@[simp] theorem setReady_crcHost (b : Bool) (s : State) : (setReady b s).crcHost = s.crcHost := by unfold setReady; dsimp only; split <;> simp
@[simp] theorem setReady_rxbuf (b : Bool) (s : State) : (setReady b s).rxbuf = s.rxbuf := by unfold setReady; dsimp only; split <;> simp
@[simp] theorem setReady_txn (b : Bool) (s : State) : (setReady b s).txn = s.txn := by unfold setReady; dsimp only; split <;> simp
@[simp] theorem setReady_ch (b : Bool) (s : State) : (setReady b s).ch = s.ch := by unfold setReady; dsimp only; split <;> simp
@[simp] theorem setReady_replies (b : Bool) (s : State) : (setReady b s).replies = s.replies := by unfold setReady; dsimp only; split <;> simp
@[simp] theorem setReady_inbox (b : Bool) (s : State) : (setReady b s).inbox = s.inbox := by unfold setReady; dsimp only; split <;> simp
@[simp] theorem setReady_waiting (b : Bool) (s : State) : (setReady b s).waiting = s.waiting := by unfold setReady; dsimp only; split <;> simp
@[simp] theorem setReady_stopWait (b : Bool) (s : State) : (setReady b s).stopWait = s.stopWait := by unfold setReady; dsimp only; split <;> simp

@[simp] theorem attemptOnce_par (t : Txn) (s : State) : ((attemptOnce t s).2).par = s.par := by simp [attemptOnce]
@[simp] theorem attemptOnce_loop (t : Txn) (s : State) : ((attemptOnce t s).2).loop = s.loop := by simp [attemptOnce]
@[simp] theorem attemptOnce_enabled (t : Txn) (s : State) : ((attemptOnce t s).2).enabled = s.enabled := by simp [attemptOnce]
@[simp] theorem attemptOnce_running (t : Txn) (s : State) : ((attemptOnce t s).2).running = s.running := by simp [attemptOnce]
@[simp] theorem attemptOnce_mode (t : Txn) (s : State) : ((attemptOnce t s).2).mode = s.mode := by simp [attemptOnce]
@[simp] theorem attemptOnce_readyOut (t : Txn) (s : State) : ((attemptOnce t s).2).readyOut = s.readyOut := by simp [attemptOnce]
@[simp] theorem attemptOnce_lock (t : Txn) (s : State) : ((attemptOnce t s).2).lock = s.lock := by simp [attemptOnce]
@[simp] theorem attemptOnce_seq (t : Txn) (s : State) : ((attemptOnce t s).2).seq = s.seq := by simp [attemptOnce]
@[simp] theorem attemptOnce_crcHost (t : Txn) (s : State) : ((attemptOnce t s).2).crcHost = s.crcHost := by simp [attemptOnce]
@[simp] theorem attemptOnce_ch (t : Txn) (s : State) : ((attemptOnce t s).2).ch = s.ch := by simp [attemptOnce]
@[simp] theorem attemptOnce_replies (t : Txn) (s : State) : ((attemptOnce t s).2).replies = s.replies := by simp [attemptOnce]
@[simp] theorem attemptOnce_inbox (t : Txn) (s : State) : ((attemptOnce t s).2).inbox = s.inbox := by simp [attemptOnce]
@[simp] theorem attemptOnce_waiting (t : Txn) (s : State) : ((attemptOnce t s).2).waiting = s.waiting := by simp [attemptOnce]
@[simp] theorem attemptOnce_stopWait (t : Txn) (s : State) : ((attemptOnce t s).2).stopWait = s.stopWait := by simp [attemptOnce]

@[simp] theorem addEvent_events (e : Event) (s : State) : (addEvent e s).events = s.events ++ [e] := rfl
@[simp] theorem logRecord_events (e : LogRecord) (s : State) : (logRecord e s).events = s.events ++ [.log e] := rfl
@[simp] theorem respondOk_replies (d : List Byte) (s : State) : (respondOk d s).replies = s.replies ++ [codeByte .ok :: d] := rfl
@[simp] theorem raise_replies (e : ResultCode) (s : State) : (raise e s).replies = s.replies ++ [[codeByte e]] := rfl
@[simp] theorem acquire_lock (o : Lock) (s : State) : (acquire o s).lock = o := rfl
@[simp] theorem release_lock (s : State) : (release s).lock = .free := rfl
@[simp] theorem modChan_ch (i : Nat) (g : Channel → Channel) (s : State) : (modChan i g s).ch = s.ch.modify i g := rfl
@[simp] theorem rxFlush_rxbuf (s : State) : (rxFlush s).rxbuf = [] := rfl
@[simp] theorem txWrite_events (q : List Byte) (s : State) : (txWrite q s).events = s.events ++ [.tx q] := rfl
@[simp] theorem transportReset_rxbuf (s : State) : (transportReset s).rxbuf = [] := rfl
@[simp] theorem transportReset_events (s : State) : (transportReset s).events = s.events ++ [.reset] := rfl
@[simp] theorem recover_rxbuf (t : Txn) (c : Cause) (s : State) : (recover t c s).rxbuf = [] := rfl
@[simp] theorem recover_events (t : Txn) (c : Cause) (s : State) :
    (recover t c s).events = s.events ++ [.reset, .log (.attemptFailed (t.req.headD 0) c t.attempt)] := by
  simp [recover]
@[simp] theorem closeTxn_txn (s : State) : (closeTxn s).txn = none := rfl
@[simp] theorem transmit_rxbuf (t : Txn) (s : State) : (transmit t s).rxbuf = [] := rfl
@[simp] theorem transmit_events (t : Txn) (s : State) : (transmit t s).events = s.events ++ [.tx t.req] := rfl
@[simp] theorem transmit_txn (t : Txn) (s : State) : (transmit t s).txn = some { t with sent := true } := rfl
@[simp] theorem enterLoop_loop (l : Loop) (s : State) : (enterLoop l s).loop = l := rfl
@[simp] theorem enterLoop_enabled (l : Loop) (s : State) : (enterLoop l s).enabled = (l == .runEn) := rfl
@[simp] theorem enterChan_seq (k : Nat) (s : State) :
    (enterChan k s).seq = if k < s.chanCount then .cycle k else .finish := rfl
@[simp] theorem setReady_readyOut (b : Bool) (s : State) : (setReady b s).readyOut = b := rfl
@[simp] theorem setDuty_ch (i d : Nat) (s : State) :
    (setDuty i d s).ch = s.ch.modify i fun c => { c with dutyOut := d } := by
  unfold setDuty; dsimp only; split <;> simp

/-- A loop over the channels keeps what each round of its body keeps. -/
theorem forChans_keeps {α : Type} (g : State → α) (body : Nat → State → State)
    (h : ∀ i s, g (body i s) = g s) (s : State) : g (forChans body s) = g s := by
  unfold forChans
  generalize List.range s.chanCount = l
  induction l generalizing s with
  | nil => rfl
  | cons i l ih => rw [List.foldl_cons, ih, h]

/-- The attempts of a transaction keep what one attempt, a recovery and the end of the transaction keep. -/
theorem runAttempts_keeps {α : Type} (g : State → α) (ha : ∀ t s, g (attemptOnce t s).2 = g s)
    (hr : ∀ t c s, g (recover t c s) = g s) (hc : ∀ s, g (closeTxn s) = g s) (more : Nat) (t : Txn) (s : State) :
    g (runAttempts more t s).2 = g s := by
  induction more generalizing t s with
  | zero =>
    have h := ha t s
    unfold runAttempts
    split <;> simp_all
  | succ more ih =>
    have h := ha t s
    unfold runAttempts
    split <;> simp_all

@[simp] theorem runTxn_par (q : List Byte) (n lim : Nat) (k : RespKind) (s : State) : (runTxn q n lim k s).2.par = s.par :=
  runAttempts_keeps State.par (by simp) (by simp) (by simp) _ _ _
@[simp] theorem runTxn_loop (q : List Byte) (n lim : Nat) (k : RespKind) (s : State) : (runTxn q n lim k s).2.loop = s.loop :=
  runAttempts_keeps State.loop (by simp) (by simp) (by simp) _ _ _
@[simp] theorem runTxn_enabled (q : List Byte) (n lim : Nat) (k : RespKind) (s : State) : (runTxn q n lim k s).2.enabled = s.enabled :=
  runAttempts_keeps State.enabled (by simp) (by simp) (by simp) _ _ _
@[simp] theorem runTxn_running (q : List Byte) (n lim : Nat) (k : RespKind) (s : State) : (runTxn q n lim k s).2.running = s.running :=
  runAttempts_keeps State.running (by simp) (by simp) (by simp) _ _ _
@[simp] theorem runTxn_mode (q : List Byte) (n lim : Nat) (k : RespKind) (s : State) : (runTxn q n lim k s).2.mode = s.mode :=
  runAttempts_keeps State.mode (by simp) (by simp) (by simp) _ _ _
@[simp] theorem runTxn_readyOut (q : List Byte) (n lim : Nat) (k : RespKind) (s : State) : (runTxn q n lim k s).2.readyOut = s.readyOut :=
  runAttempts_keeps State.readyOut (by simp) (by simp) (by simp) _ _ _
@[simp] theorem runTxn_lock (q : List Byte) (n lim : Nat) (k : RespKind) (s : State) : (runTxn q n lim k s).2.lock = s.lock :=
  runAttempts_keeps State.lock (by simp) (by simp) (by simp) _ _ _
@[simp] theorem runTxn_seq (q : List Byte) (n lim : Nat) (k : RespKind) (s : State) : (runTxn q n lim k s).2.seq = s.seq :=
  runAttempts_keeps State.seq (by simp) (by simp) (by simp) _ _ _
@[simp] theorem runTxn_crcHost (q : List Byte) (n lim : Nat) (k : RespKind) (s : State) : (runTxn q n lim k s).2.crcHost = s.crcHost :=
  runAttempts_keeps State.crcHost (by simp) (by simp) (by simp) _ _ _
@[simp] theorem runTxn_ch (q : List Byte) (n lim : Nat) (k : RespKind) (s : State) : (runTxn q n lim k s).2.ch = s.ch :=
  runAttempts_keeps State.ch (by simp) (by simp) (by simp) _ _ _
@[simp] theorem runTxn_replies (q : List Byte) (n lim : Nat) (k : RespKind) (s : State) : (runTxn q n lim k s).2.replies = s.replies :=
  runAttempts_keeps State.replies (by simp) (by simp) (by simp) _ _ _
@[simp] theorem runTxn_inbox (q : List Byte) (n lim : Nat) (k : RespKind) (s : State) : (runTxn q n lim k s).2.inbox = s.inbox :=
  runAttempts_keeps State.inbox (by simp) (by simp) (by simp) _ _ _
@[simp] theorem runTxn_waiting (q : List Byte) (n lim : Nat) (k : RespKind) (s : State) : (runTxn q n lim k s).2.waiting = s.waiting :=
  runAttempts_keeps State.waiting (by simp) (by simp) (by simp) _ _ _
@[simp] theorem runTxn_stopWait (q : List Byte) (n lim : Nat) (k : RespKind) (s : State) : (runTxn q n lim k s).2.stopWait = s.stopWait :=
  runAttempts_keeps State.stopWait (by simp) (by simp) (by simp) _ _ _

@[simp] theorem readTemperature_par (a : Byte) (s : State) : (readTemperature a s).2.par = s.par := by simp [readTemperature]
@[simp] theorem readTemperature_loop (a : Byte) (s : State) : (readTemperature a s).2.loop = s.loop := by simp [readTemperature]
@[simp] theorem readTemperature_enabled (a : Byte) (s : State) : (readTemperature a s).2.enabled = s.enabled := by simp [readTemperature]
@[simp] theorem readTemperature_running (a : Byte) (s : State) : (readTemperature a s).2.running = s.running := by simp [readTemperature]
@[simp] theorem readTemperature_mode (a : Byte) (s : State) : (readTemperature a s).2.mode = s.mode := by simp [readTemperature]
@[simp] theorem readTemperature_readyOut (a : Byte) (s : State) : (readTemperature a s).2.readyOut = s.readyOut := by simp [readTemperature]
@[simp] theorem readTemperature_lock (a : Byte) (s : State) : (readTemperature a s).2.lock = s.lock := by simp [readTemperature]
@[simp] theorem readTemperature_seq (a : Byte) (s : State) : (readTemperature a s).2.seq = s.seq := by simp [readTemperature]
@[simp] theorem readTemperature_crcHost (a : Byte) (s : State) : (readTemperature a s).2.crcHost = s.crcHost := by simp [readTemperature]
@[simp] theorem readTemperature_ch (a : Byte) (s : State) : (readTemperature a s).2.ch = s.ch := by simp [readTemperature]
@[simp] theorem readTemperature_replies (a : Byte) (s : State) : (readTemperature a s).2.replies = s.replies := by simp [readTemperature]
@[simp] theorem readTemperature_inbox (a : Byte) (s : State) : (readTemperature a s).2.inbox = s.inbox := by simp [readTemperature]
@[simp] theorem readTemperature_waiting (a : Byte) (s : State) : (readTemperature a s).2.waiting = s.waiting := by simp [readTemperature]
@[simp] theorem readTemperature_stopWait (a : Byte) (s : State) : (readTemperature a s).2.stopWait = s.stopWait := by simp [readTemperature]

@[simp] theorem discoverAddress_par (s : State) : (discoverAddress s).2.par = s.par := by
  unfold discoverAddress; dsimp only; split <;> simp
@[simp] theorem discoverAddress_loop (s : State) : (discoverAddress s).2.loop = s.loop := by
  unfold discoverAddress; dsimp only; split <;> simp
@[simp] theorem discoverAddress_enabled (s : State) : (discoverAddress s).2.enabled = s.enabled := by
  unfold discoverAddress; dsimp only; split <;> simp
@[simp] theorem discoverAddress_running (s : State) : (discoverAddress s).2.running = s.running := by
  unfold discoverAddress; dsimp only; split <;> simp
@[simp] theorem discoverAddress_mode (s : State) : (discoverAddress s).2.mode = s.mode := by
  unfold discoverAddress; dsimp only; split <;> simp
@[simp] theorem discoverAddress_readyOut (s : State) : (discoverAddress s).2.readyOut = s.readyOut := by
  unfold discoverAddress; dsimp only; split <;> simp
@[simp] theorem discoverAddress_lock (s : State) : (discoverAddress s).2.lock = s.lock := by
  unfold discoverAddress; dsimp only; split <;> simp
@[simp] theorem discoverAddress_seq (s : State) : (discoverAddress s).2.seq = s.seq := by
  unfold discoverAddress; dsimp only; split <;> simp
@[simp] theorem discoverAddress_crcHost (s : State) : (discoverAddress s).2.crcHost = s.crcHost := by
  unfold discoverAddress; dsimp only; split <;> simp
@[simp] theorem discoverAddress_ch (s : State) : (discoverAddress s).2.ch = s.ch := by
  unfold discoverAddress; dsimp only; split <;> simp
@[simp] theorem discoverAddress_replies (s : State) : (discoverAddress s).2.replies = s.replies := by
  unfold discoverAddress; dsimp only; split <;> simp
@[simp] theorem discoverAddress_inbox (s : State) : (discoverAddress s).2.inbox = s.inbox := by
  unfold discoverAddress; dsimp only; split <;> simp
@[simp] theorem discoverAddress_waiting (s : State) : (discoverAddress s).2.waiting = s.waiting := by
  unfold discoverAddress; dsimp only; split <;> simp
@[simp] theorem discoverAddress_stopWait (s : State) : (discoverAddress s).2.stopWait = s.stopWait := by
  unfold discoverAddress; dsimp only; split <;> simp

@[simp] theorem assignAddress_par (w : Half) (s : State) : (assignAddress w s).2.par = s.par := by
  have h := discoverAddress_par s
  unfold assignAddress
  split
  · simp_all
  · dsimp only; split <;> simp_all
@[simp] theorem assignAddress_loop (w : Half) (s : State) : (assignAddress w s).2.loop = s.loop := by
  have h := discoverAddress_loop s
  unfold assignAddress
  split
  · simp_all
  · dsimp only; split <;> simp_all
@[simp] theorem assignAddress_enabled (w : Half) (s : State) : (assignAddress w s).2.enabled = s.enabled := by
  have h := discoverAddress_enabled s
  unfold assignAddress
  split
  · simp_all
  · dsimp only; split <;> simp_all
@[simp] theorem assignAddress_running (w : Half) (s : State) : (assignAddress w s).2.running = s.running := by
  have h := discoverAddress_running s
  unfold assignAddress
  split
  · simp_all
  · dsimp only; split <;> simp_all
@[simp] theorem assignAddress_mode (w : Half) (s : State) : (assignAddress w s).2.mode = s.mode := by
  have h := discoverAddress_mode s
  unfold assignAddress
  split
  · simp_all
  · dsimp only; split <;> simp_all
@[simp] theorem assignAddress_readyOut (w : Half) (s : State) : (assignAddress w s).2.readyOut = s.readyOut := by
  have h := discoverAddress_readyOut s
  unfold assignAddress
  split
  · simp_all
  · dsimp only; split <;> simp_all
@[simp] theorem assignAddress_lock (w : Half) (s : State) : (assignAddress w s).2.lock = s.lock := by
  have h := discoverAddress_lock s
  unfold assignAddress
  split
  · simp_all
  · dsimp only; split <;> simp_all
@[simp] theorem assignAddress_seq (w : Half) (s : State) : (assignAddress w s).2.seq = s.seq := by
  have h := discoverAddress_seq s
  unfold assignAddress
  split
  · simp_all
  · dsimp only; split <;> simp_all
@[simp] theorem assignAddress_crcHost (w : Half) (s : State) : (assignAddress w s).2.crcHost = s.crcHost := by
  have h := discoverAddress_crcHost s
  unfold assignAddress
  split
  · simp_all
  · dsimp only; split <;> simp_all
@[simp] theorem assignAddress_ch (w : Half) (s : State) : (assignAddress w s).2.ch = s.ch := by
  have h := discoverAddress_ch s
  unfold assignAddress
  split
  · simp_all
  · dsimp only; split <;> simp_all
@[simp] theorem assignAddress_replies (w : Half) (s : State) : (assignAddress w s).2.replies = s.replies := by
  have h := discoverAddress_replies s
  unfold assignAddress
  split
  · simp_all
  · dsimp only; split <;> simp_all
@[simp] theorem assignAddress_inbox (w : Half) (s : State) : (assignAddress w s).2.inbox = s.inbox := by
  have h := discoverAddress_inbox s
  unfold assignAddress
  split
  · simp_all
  · dsimp only; split <;> simp_all
@[simp] theorem assignAddress_waiting (w : Half) (s : State) : (assignAddress w s).2.waiting = s.waiting := by
  have h := discoverAddress_waiting s
  unfold assignAddress
  split
  · simp_all
  · dsimp only; split <;> simp_all
@[simp] theorem assignAddress_stopWait (w : Half) (s : State) : (assignAddress w s).2.stopWait = s.stopWait := by
  have h := discoverAddress_stopWait s
  unfold assignAddress
  split
  · simp_all
  · dsimp only; split <;> simp_all

@[simp] theorem exitChan_par (i : Nat) (s : State) : (exitChan i s).par = s.par := by simp [exitChan]
@[simp] theorem exitChan_loop (i : Nat) (s : State) : (exitChan i s).loop = s.loop := by simp [exitChan]
@[simp] theorem exitChan_enabled (i : Nat) (s : State) : (exitChan i s).enabled = s.enabled := by simp [exitChan]
@[simp] theorem exitChan_running (i : Nat) (s : State) : (exitChan i s).running = s.running := by simp [exitChan]
@[simp] theorem exitChan_mode (i : Nat) (s : State) : (exitChan i s).mode = s.mode := by simp [exitChan]
@[simp] theorem exitChan_readyOut (i : Nat) (s : State) : (exitChan i s).readyOut = s.readyOut := by simp [exitChan]
@[simp] theorem exitChan_lock (i : Nat) (s : State) : (exitChan i s).lock = s.lock := by simp [exitChan]
@[simp] theorem exitChan_seq (i : Nat) (s : State) : (exitChan i s).seq = s.seq := by simp [exitChan]
@[simp] theorem exitChan_crcHost (i : Nat) (s : State) : (exitChan i s).crcHost = s.crcHost := by simp [exitChan]
@[simp] theorem exitChan_rxbuf (i : Nat) (s : State) : (exitChan i s).rxbuf = s.rxbuf := by simp [exitChan]
@[simp] theorem exitChan_txn (i : Nat) (s : State) : (exitChan i s).txn = s.txn := by simp [exitChan]
@[simp] theorem exitChan_replies (i : Nat) (s : State) : (exitChan i s).replies = s.replies := by simp [exitChan]
@[simp] theorem exitChan_inbox (i : Nat) (s : State) : (exitChan i s).inbox = s.inbox := by simp [exitChan]
@[simp] theorem exitChan_waiting (i : Nat) (s : State) : (exitChan i s).waiting = s.waiting := by simp [exitChan]
@[simp] theorem exitChan_stopWait (i : Nat) (s : State) : (exitChan i s).stopWait = s.stopWait := by simp [exitChan]

@[simp] theorem disableChan_par (i : Nat) (s : State) : (disableChan i s).par = s.par := by simp [disableChan]
@[simp] theorem disableChan_loop (i : Nat) (s : State) : (disableChan i s).loop = s.loop := by simp [disableChan]
@[simp] theorem disableChan_enabled (i : Nat) (s : State) : (disableChan i s).enabled = s.enabled := by simp [disableChan]
@[simp] theorem disableChan_running (i : Nat) (s : State) : (disableChan i s).running = s.running := by simp [disableChan]
@[simp] theorem disableChan_mode (i : Nat) (s : State) : (disableChan i s).mode = s.mode := by simp [disableChan]
@[simp] theorem disableChan_readyOut (i : Nat) (s : State) : (disableChan i s).readyOut = s.readyOut := by simp [disableChan]
@[simp] theorem disableChan_lock (i : Nat) (s : State) : (disableChan i s).lock = s.lock := by simp [disableChan]
@[simp] theorem disableChan_seq (i : Nat) (s : State) : (disableChan i s).seq = s.seq := by simp [disableChan]
@[simp] theorem disableChan_crcHost (i : Nat) (s : State) : (disableChan i s).crcHost = s.crcHost := by simp [disableChan]
@[simp] theorem disableChan_rxbuf (i : Nat) (s : State) : (disableChan i s).rxbuf = s.rxbuf := by simp [disableChan]
@[simp] theorem disableChan_txn (i : Nat) (s : State) : (disableChan i s).txn = s.txn := by simp [disableChan]
@[simp] theorem disableChan_replies (i : Nat) (s : State) : (disableChan i s).replies = s.replies := by simp [disableChan]
@[simp] theorem disableChan_inbox (i : Nat) (s : State) : (disableChan i s).inbox = s.inbox := by simp [disableChan]
@[simp] theorem disableChan_waiting (i : Nat) (s : State) : (disableChan i s).waiting = s.waiting := by simp [disableChan]
@[simp] theorem disableChan_stopWait (i : Nat) (s : State) : (disableChan i s).stopWait = s.stopWait := by simp [disableChan]

@[simp] theorem engineExit_par (s : State) : (engineExit s).par = s.par := by simp [engineExit, forChans_keeps State.par]
@[simp] theorem engineExit_running (s : State) : (engineExit s).running = s.running := by simp [engineExit, forChans_keeps State.running]
@[simp] theorem engineExit_mode (s : State) : (engineExit s).mode = s.mode := by simp [engineExit, forChans_keeps State.mode]
@[simp] theorem engineExit_crcHost (s : State) : (engineExit s).crcHost = s.crcHost := by simp [engineExit, forChans_keeps State.crcHost]
@[simp] theorem engineExit_rxbuf (s : State) : (engineExit s).rxbuf = s.rxbuf := by simp [engineExit, forChans_keeps State.rxbuf]
@[simp] theorem engineExit_txn (s : State) : (engineExit s).txn = s.txn := by simp [engineExit, forChans_keeps State.txn]
@[simp] theorem engineExit_replies (s : State) : (engineExit s).replies = s.replies := by simp [engineExit, forChans_keeps State.replies]
@[simp] theorem engineExit_inbox (s : State) : (engineExit s).inbox = s.inbox := by simp [engineExit, forChans_keeps State.inbox]
@[simp] theorem engineExit_waiting (s : State) : (engineExit s).waiting = s.waiting := by simp [engineExit, forChans_keeps State.waiting]
@[simp] theorem engineExit_stopWait (s : State) : (engineExit s).stopWait = s.stopWait := by simp [engineExit, forChans_keeps State.stopWait]

@[simp] theorem engineExit_readyOut (s : State) : (engineExit s).readyOut = false := rfl
@[simp] theorem engineExit_loop (s : State) : (engineExit s).loop = .terminated := rfl
@[simp] theorem engineExit_enabled (s : State) : (engineExit s).enabled = false := rfl
@[simp] theorem engineExit_seq (s : State) : (engineExit s).seq = .stopped := rfl
@[simp] theorem engineExit_lock (s : State) : (engineExit s).lock = .free := rfl

@[simp] theorem answerStop_par (s : State) : (answerStop s).par = s.par := by unfold answerStop; split <;> simp
@[simp] theorem answerStop_loop (s : State) : (answerStop s).loop = s.loop := by unfold answerStop; split <;> simp
@[simp] theorem answerStop_enabled (s : State) : (answerStop s).enabled = s.enabled := by unfold answerStop; split <;> simp
@[simp] theorem answerStop_running (s : State) : (answerStop s).running = s.running := by unfold answerStop; split <;> simp
@[simp] theorem answerStop_mode (s : State) : (answerStop s).mode = s.mode := by unfold answerStop; split <;> simp
@[simp] theorem answerStop_readyOut (s : State) : (answerStop s).readyOut = s.readyOut := by unfold answerStop; split <;> simp
@[simp] theorem answerStop_lock (s : State) : (answerStop s).lock = s.lock := by unfold answerStop; split <;> simp
@[simp] theorem answerStop_seq (s : State) : (answerStop s).seq = s.seq := by unfold answerStop; split <;> simp
@[simp] theorem answerStop_crcHost (s : State) : (answerStop s).crcHost = s.crcHost := by unfold answerStop; split <;> simp
@[simp] theorem answerStop_rxbuf (s : State) : (answerStop s).rxbuf = s.rxbuf := by unfold answerStop; split <;> simp
@[simp] theorem answerStop_txn (s : State) : (answerStop s).txn = s.txn := by unfold answerStop; split <;> simp
@[simp] theorem answerStop_events (s : State) : (answerStop s).events = s.events := by unfold answerStop; split <;> simp
@[simp] theorem answerStop_ch (s : State) : (answerStop s).ch = s.ch := by unfold answerStop; split <;> simp
@[simp] theorem answerStop_inbox (s : State) : (answerStop s).inbox = s.inbox := by unfold answerStop; split <;> simp
@[simp] theorem answerStop_waiting (s : State) : (answerStop s).waiting = s.waiting := by unfold answerStop; split <;> simp
@[simp] theorem answerStop_env (s : State) : (answerStop s).env = s.env := by unfold answerStop; split <;> simp

@[simp] theorem storeReading_par (k : Nat) (r : Except ResultCode F) (s : State) : (storeReading k r s).par = s.par := by unfold storeReading; split <;> simp
@[simp] theorem storeReading_loop (k : Nat) (r : Except ResultCode F) (s : State) : (storeReading k r s).loop = s.loop := by unfold storeReading; split <;> simp
@[simp] theorem storeReading_enabled (k : Nat) (r : Except ResultCode F) (s : State) : (storeReading k r s).enabled = s.enabled := by unfold storeReading; split <;> simp
@[simp] theorem storeReading_running (k : Nat) (r : Except ResultCode F) (s : State) : (storeReading k r s).running = s.running := by unfold storeReading; split <;> simp
@[simp] theorem storeReading_mode (k : Nat) (r : Except ResultCode F) (s : State) : (storeReading k r s).mode = s.mode := by unfold storeReading; split <;> simp
@[simp] theorem storeReading_readyOut (k : Nat) (r : Except ResultCode F) (s : State) : (storeReading k r s).readyOut = s.readyOut := by unfold storeReading; split <;> simp
@[simp] theorem storeReading_lock (k : Nat) (r : Except ResultCode F) (s : State) : (storeReading k r s).lock = s.lock := by unfold storeReading; split <;> simp
@[simp] theorem storeReading_seq (k : Nat) (r : Except ResultCode F) (s : State) : (storeReading k r s).seq = s.seq := by unfold storeReading; split <;> simp
@[simp] theorem storeReading_crcHost (k : Nat) (r : Except ResultCode F) (s : State) : (storeReading k r s).crcHost = s.crcHost := by unfold storeReading; split <;> simp
@[simp] theorem storeReading_rxbuf (k : Nat) (r : Except ResultCode F) (s : State) : (storeReading k r s).rxbuf = s.rxbuf := by unfold storeReading; split <;> simp
@[simp] theorem storeReading_txn (k : Nat) (r : Except ResultCode F) (s : State) : (storeReading k r s).txn = s.txn := by unfold storeReading; split <;> simp
@[simp] theorem storeReading_replies (k : Nat) (r : Except ResultCode F) (s : State) : (storeReading k r s).replies = s.replies := by unfold storeReading; split <;> simp
@[simp] theorem storeReading_inbox (k : Nat) (r : Except ResultCode F) (s : State) : (storeReading k r s).inbox = s.inbox := by unfold storeReading; split <;> simp
@[simp] theorem storeReading_waiting (k : Nat) (r : Except ResultCode F) (s : State) : (storeReading k r s).waiting = s.waiting := by unfold storeReading; split <;> simp
@[simp] theorem storeReading_stopWait (k : Nat) (r : Except ResultCode F) (s : State) : (storeReading k r s).stopWait = s.stopWait := by unfold storeReading; split <;> simp
@[simp] theorem storeReading_env (k : Nat) (r : Except ResultCode F) (s : State) : (storeReading k r s).env = s.env := by unfold storeReading; split <;> simp

@[simp] theorem actuate_par (k : Nat) (s : State) : (actuate k s).par = s.par := by unfold actuate; split <;> simp
@[simp] theorem actuate_loop (k : Nat) (s : State) : (actuate k s).loop = s.loop := by unfold actuate; split <;> simp
@[simp] theorem actuate_enabled (k : Nat) (s : State) : (actuate k s).enabled = s.enabled := by unfold actuate; split <;> simp
@[simp] theorem actuate_running (k : Nat) (s : State) : (actuate k s).running = s.running := by unfold actuate; split <;> simp
@[simp] theorem actuate_mode (k : Nat) (s : State) : (actuate k s).mode = s.mode := by unfold actuate; split <;> simp
@[simp] theorem actuate_readyOut (k : Nat) (s : State) : (actuate k s).readyOut = s.readyOut := by unfold actuate; split <;> simp
@[simp] theorem actuate_lock (k : Nat) (s : State) : (actuate k s).lock = s.lock := by unfold actuate; split <;> simp
@[simp] theorem actuate_seq (k : Nat) (s : State) : (actuate k s).seq = s.seq := by unfold actuate; split <;> simp
@[simp] theorem actuate_crcHost (k : Nat) (s : State) : (actuate k s).crcHost = s.crcHost := by unfold actuate; split <;> simp
@[simp] theorem actuate_rxbuf (k : Nat) (s : State) : (actuate k s).rxbuf = s.rxbuf := by unfold actuate; split <;> simp
@[simp] theorem actuate_txn (k : Nat) (s : State) : (actuate k s).txn = s.txn := by unfold actuate; split <;> simp
@[simp] theorem actuate_replies (k : Nat) (s : State) : (actuate k s).replies = s.replies := by unfold actuate; split <;> simp
@[simp] theorem actuate_inbox (k : Nat) (s : State) : (actuate k s).inbox = s.inbox := by unfold actuate; split <;> simp
@[simp] theorem actuate_waiting (k : Nat) (s : State) : (actuate k s).waiting = s.waiting := by unfold actuate; split <;> simp
@[simp] theorem actuate_stopWait (k : Nat) (s : State) : (actuate k s).stopWait = s.stopWait := by unfold actuate; split <;> simp

@[simp] theorem chanDone_par (k : Nat) (en : Bool) (r : Except ResultCode F) (s : State) : (chanDone k en r s).par = s.par := by unfold chanDone; split <;> simp
@[simp] theorem chanDone_loop (k : Nat) (en : Bool) (r : Except ResultCode F) (s : State) : (chanDone k en r s).loop = s.loop := by unfold chanDone; split <;> simp
@[simp] theorem chanDone_enabled (k : Nat) (en : Bool) (r : Except ResultCode F) (s : State) : (chanDone k en r s).enabled = s.enabled := by unfold chanDone; split <;> simp
@[simp] theorem chanDone_running (k : Nat) (en : Bool) (r : Except ResultCode F) (s : State) : (chanDone k en r s).running = s.running := by unfold chanDone; split <;> simp
@[simp] theorem chanDone_mode (k : Nat) (en : Bool) (r : Except ResultCode F) (s : State) : (chanDone k en r s).mode = s.mode := by unfold chanDone; split <;> simp
@[simp] theorem chanDone_readyOut (k : Nat) (en : Bool) (r : Except ResultCode F) (s : State) : (chanDone k en r s).readyOut = s.readyOut := by unfold chanDone; split <;> simp
@[simp] theorem chanDone_lock (k : Nat) (en : Bool) (r : Except ResultCode F) (s : State) : (chanDone k en r s).lock = s.lock := by unfold chanDone; split <;> simp
@[simp] theorem chanDone_seq (k : Nat) (en : Bool) (r : Except ResultCode F) (s : State) : (chanDone k en r s).seq = s.seq := by unfold chanDone; split <;> simp
@[simp] theorem chanDone_crcHost (k : Nat) (en : Bool) (r : Except ResultCode F) (s : State) : (chanDone k en r s).crcHost = s.crcHost := by unfold chanDone; split <;> simp
@[simp] theorem chanDone_rxbuf (k : Nat) (en : Bool) (r : Except ResultCode F) (s : State) : (chanDone k en r s).rxbuf = s.rxbuf := by unfold chanDone; split <;> simp
@[simp] theorem chanDone_txn (k : Nat) (en : Bool) (r : Except ResultCode F) (s : State) : (chanDone k en r s).txn = s.txn := by unfold chanDone; split <;> simp
@[simp] theorem chanDone_replies (k : Nat) (en : Bool) (r : Except ResultCode F) (s : State) : (chanDone k en r s).replies = s.replies := by unfold chanDone; split <;> simp
@[simp] theorem chanDone_inbox (k : Nat) (en : Bool) (r : Except ResultCode F) (s : State) : (chanDone k en r s).inbox = s.inbox := by unfold chanDone; split <;> simp
@[simp] theorem chanDone_waiting (k : Nat) (en : Bool) (r : Except ResultCode F) (s : State) : (chanDone k en r s).waiting = s.waiting := by unfold chanDone; split <;> simp
@[simp] theorem chanDone_stopWait (k : Nat) (en : Bool) (r : Except ResultCode F) (s : State) : (chanDone k en r s).stopWait = s.stopWait := by unfold chanDone; split <;> simp

@[simp] theorem finishCycle_par (q : Seq) (s : State) : (finishCycle q s).par = s.par := by simp [finishCycle]
@[simp] theorem finishCycle_loop (q : Seq) (s : State) : (finishCycle q s).loop = s.loop := by simp [finishCycle]
@[simp] theorem finishCycle_enabled (q : Seq) (s : State) : (finishCycle q s).enabled = s.enabled := by simp [finishCycle]
@[simp] theorem finishCycle_running (q : Seq) (s : State) : (finishCycle q s).running = s.running := by simp [finishCycle]
@[simp] theorem finishCycle_mode (q : Seq) (s : State) : (finishCycle q s).mode = s.mode := by simp [finishCycle]
@[simp] theorem finishCycle_crcHost (q : Seq) (s : State) : (finishCycle q s).crcHost = s.crcHost := by simp [finishCycle]
@[simp] theorem finishCycle_rxbuf (q : Seq) (s : State) : (finishCycle q s).rxbuf = s.rxbuf := by simp [finishCycle]
@[simp] theorem finishCycle_txn (q : Seq) (s : State) : (finishCycle q s).txn = s.txn := by simp [finishCycle]
@[simp] theorem finishCycle_ch (q : Seq) (s : State) : (finishCycle q s).ch = s.ch := by simp [finishCycle]
@[simp] theorem finishCycle_replies (q : Seq) (s : State) : (finishCycle q s).replies = s.replies := by simp [finishCycle]
@[simp] theorem finishCycle_inbox (q : Seq) (s : State) : (finishCycle q s).inbox = s.inbox := by simp [finishCycle]
@[simp] theorem finishCycle_waiting (q : Seq) (s : State) : (finishCycle q s).waiting = s.waiting := by simp [finishCycle]
@[simp] theorem finishCycle_stopWait (q : Seq) (s : State) : (finishCycle q s).stopWait = s.stopWait := by simp [finishCycle]

@[simp] theorem callerChan_par (en : Bool) (k : Nat) (s : State) : (callerChan en k s).par = s.par := by unfold callerChan; split <;> simp
@[simp] theorem callerChan_loop (en : Bool) (k : Nat) (s : State) : (callerChan en k s).loop = s.loop := by unfold callerChan; split <;> simp
@[simp] theorem callerChan_enabled (en : Bool) (k : Nat) (s : State) : (callerChan en k s).enabled = s.enabled := by unfold callerChan; split <;> simp
@[simp] theorem callerChan_running (en : Bool) (k : Nat) (s : State) : (callerChan en k s).running = s.running := by unfold callerChan; split <;> simp
@[simp] theorem callerChan_mode (en : Bool) (k : Nat) (s : State) : (callerChan en k s).mode = s.mode := by unfold callerChan; split <;> simp
@[simp] theorem callerChan_readyOut (en : Bool) (k : Nat) (s : State) : (callerChan en k s).readyOut = s.readyOut := by unfold callerChan; split <;> simp
@[simp] theorem callerChan_lock (en : Bool) (k : Nat) (s : State) : (callerChan en k s).lock = s.lock := by unfold callerChan; split <;> simp
@[simp] theorem callerChan_crcHost (en : Bool) (k : Nat) (s : State) : (callerChan en k s).crcHost = s.crcHost := by unfold callerChan; split <;> simp
@[simp] theorem callerChan_replies (en : Bool) (k : Nat) (s : State) : (callerChan en k s).replies = s.replies := by unfold callerChan; split <;> simp
@[simp] theorem callerChan_inbox (en : Bool) (k : Nat) (s : State) : (callerChan en k s).inbox = s.inbox := by unfold callerChan; split <;> simp
@[simp] theorem callerChan_waiting (en : Bool) (k : Nat) (s : State) : (callerChan en k s).waiting = s.waiting := by unfold callerChan; split <;> simp
@[simp] theorem callerChan_stopWait (en : Bool) (k : Nat) (s : State) : (callerChan en k s).stopWait = s.stopWait := by unfold callerChan; split <;> simp

@[simp] theorem callerCycle_par (s : State) : (callerCycle s).par = s.par := by
  simp [callerCycle, forChans_keeps State.par]
@[simp] theorem callerCycle_loop (s : State) : (callerCycle s).loop = s.loop := by
  simp [callerCycle, forChans_keeps State.loop]
@[simp] theorem callerCycle_enabled (s : State) : (callerCycle s).enabled = s.enabled := by
  simp [callerCycle, forChans_keeps State.enabled]
@[simp] theorem callerCycle_running (s : State) : (callerCycle s).running = s.running := by
  simp [callerCycle, forChans_keeps State.running]
@[simp] theorem callerCycle_mode (s : State) : (callerCycle s).mode = s.mode := by
  simp [callerCycle, forChans_keeps State.mode]
@[simp] theorem callerCycle_crcHost (s : State) : (callerCycle s).crcHost = s.crcHost := by
  simp [callerCycle, forChans_keeps State.crcHost]
@[simp] theorem callerCycle_replies (s : State) : (callerCycle s).replies = s.replies := by
  simp [callerCycle, forChans_keeps State.replies]
@[simp] theorem callerCycle_inbox (s : State) : (callerCycle s).inbox = s.inbox := by
  simp [callerCycle, forChans_keeps State.inbox]
@[simp] theorem callerCycle_waiting (s : State) : (callerCycle s).waiting = s.waiting := by
  simp [callerCycle, forChans_keeps State.waiting]
@[simp] theorem callerCycle_stopWait (s : State) : (callerCycle s).stopWait = s.stopWait := by
  simp [callerCycle, forChans_keeps State.stopWait]


end Sys2Proof.Machine
end

