-- ==== Sys2Proof/Laws/Ops.lean ====
section
/-! SUPPORT. For each shared operation, once, everything it can do; and the byte-order and trailer lemmas that decoding rests on. -/

namespace Sys2Proof.Machine

/-! ### Draws of the environment -/

theorem drawAct_scripted (s : State) (b : Bool) (rest : List Bool) (h : s.env.act = b :: rest) :
    drawAct s = (b, { s with env := { s.env with act := rest } }) := by simp [drawAct, h]

theorem drawAct_spec (s : State) : ∃ v, (drawAct s).2 = { s with env := v } ∧ v.rx = s.env.rx ∧ v.now = s.env.now ∧
    v.spawn = s.env.spawn ∧ v.clock = s.env.clock := by
  unfold drawAct; split <;> exact ⟨_, rfl, rfl, rfl, rfl, rfl⟩

theorem drawSpawn_scripted (s : State) (b : Bool) (rest : List Bool) (h : s.env.spawn = b :: rest) :
    drawSpawn s = (b, { s with env := { s.env with spawn := rest } }) := by simp [drawSpawn, h]

theorem drawRx_scripted (s : State) (b : List Byte) (rest : List (List Byte)) (h : s.env.rx = b :: rest) :
    drawRx s = (b, { s with env := { s.env with rx := rest } }) := by simp [drawRx, h]

theorem readNow_scripted (s : State) (d : Nat) (rest : List Nat) (h : s.env.now = d :: rest) :
    readNow s = (s.env.clock + d, { s with env := { s.env with now := rest, clock := s.env.clock + d } }) := by
  simp [readNow, h]

/-- The time source does not go back (R137, R150), and what `Now()` answers is its new value. -/
theorem readNow_spec (s : State) : (readNow s).1 = (readNow s).2.env.clock ∧ s.env.clock ≤ (readNow s).1 := by
  unfold readNow; split <;> exact ⟨rfl, Nat.le_add_right _ _⟩

/-! ### Outputs -/

/-- R124: the event, then at most one record, the duty recorded; nothing else but the environment. -/
theorem setDuty_spec (i d : Nat) (s : State) : ∃ fails v,
    setDuty i d s = { s with
      events := s.events ++ .duty i d :: fails, ch := s.ch.modify i (fun c => { c with dutyOut := d }), env := v } ∧
    (fails = [] ∨ fails = [.log (.dutyFailed i d)]) ∧
    v.rx = s.env.rx ∧ v.now = s.env.now ∧ v.spawn = s.env.spawn ∧ v.clock = s.env.clock := by
  obtain ⟨v, hv, h⟩ := drawAct_spec (addEvent (.duty i d) s)
  rcases hd : drawAct (addEvent (.duty i d) s) with ⟨ok, r⟩
  rw [hd] at hv
  dsimp only at hv
  subst hv
  cases ok
  · exact ⟨[.log (.dutyFailed i d)], v, by simp only [setDuty, hd]; simp [modChan, logRecord, addEvent], .inr rfl, by simpa using h⟩
  · exact ⟨[], v, by simp only [setDuty, hd]; simp [modChan, addEvent], .inl rfl, by simpa using h⟩

/-- R125: the event, then at most one record, the ready bit recorded; nothing else but the environment. -/
theorem setReady_spec (b : Bool) (s : State) : ∃ fails v,
    setReady b s = { s with events := s.events ++ .ready b :: fails, readyOut := b, env := v } ∧
    (fails = [] ∨ fails = [.log (.readyFailed b)]) ∧
    v.rx = s.env.rx ∧ v.now = s.env.now ∧ v.spawn = s.env.spawn ∧ v.clock = s.env.clock := by
  obtain ⟨v, hv, h⟩ := drawAct_spec (addEvent (.ready b) s)
  rcases hd : drawAct (addEvent (.ready b) s) with ⟨ok, r⟩
  rw [hd] at hv
  dsimp only at hv
  subst hv
  cases ok
  · exact ⟨[.log (.readyFailed b)], v, by simp only [setReady, hd]; simp [logRecord, addEvent], .inr rfl, by simpa using h⟩
  · exact ⟨[], v, by simp only [setReady, hd]; simp [addEvent], .inl rfl, by simpa using h⟩

/-! ### The receive buffer and one attempt -/

/-- R15, R57: `RxExact` takes its bytes out of the buffer, or takes none. -/
theorem takeRx_spec (n : Nat) (s : State) :
    (n ≤ s.rxbuf.length ∧ takeRx n s = (some (s.rxbuf.take n), { s with rxbuf := s.rxbuf.drop n })) ∨
    (s.rxbuf.length < n ∧ takeRx n s = (none, s)) := by
  unfold takeRx; split
  · exact .inl ⟨‹_›, rfl⟩
  · exact .inr ⟨by omega, rfl⟩

/-- What is left in the buffer once `RxExact(n, _)` has looked at `bytes`. -/
theorem takeRx_answer (n : Nat) (s : State) (bytes : List Byte) (h : s.rxbuf = bytes) :
    takeRx n s = (answerOf n bytes, { s with rxbuf := if n ≤ bytes.length then bytes.drop n else bytes }) := by
  subst h; unfold takeRx answerOf; split <;> rfl

/-- R100: one attempt whose wait is scripted: what it answers, and the whole state after it. -/
theorem attemptOnce_scripted (t : Txn) (s : State) (a : List Byte) (rest : List (List Byte)) (h : s.env.rx = a :: rest) :
    attemptOnce t s = (judge t (answerOf t.len a),
      { s with
        rxbuf := if t.len ≤ a.length then a.drop t.len else a
        txn := some { t with sent := true }
        events := s.events ++ [.tx t.req, answerEvent (answerOf t.len a)]
        env := { s.env with rx := rest } }) := by
  have hd := drawRx_scripted (transmit t s) a rest (by simpa using h)
  simp only [attemptOnce, rxExact, hd]
  rw [takeRx_answer _ _ a (by simp)]
  simp [addEvent, transmit, txWrite, rxFlush]

/-! ### The lock -/

theorem withLock_free (i : Instr) (body : State → State) (s : State) (h : s.lock = .free) :
    withLock i body s = .next (release (body (acquire .host s))) := by simp [withLock, h]

theorem withLock_held (i : Instr) (body : State → State) (s : State) (h : s.lock ≠ .free) :
    withLock i body s = .next { s with waiting := s.waiting ++ [.cmd i] } := by simp [withLock, h]

/-! ### Loops over the channels -/

theorem foldl_modify_ch (body : Nat → State → State) (g : Channel → Channel)
    (h : ∀ i s, (body i s).ch = s.ch.modify i g) (l : List Nat) (s : State) (k : Nat) (hl : l.Nodup) :
    (l.foldl (fun t i => body i t) s).ch[k]? = if k ∈ l then s.ch[k]?.map g else s.ch[k]? := by
  induction l generalizing s with
  | nil => simp
  | cons i l ih =>
    rw [List.foldl_cons, ih _ (List.nodup_cons.mp hl).2, h, List.getElem?_modify]
    by_cases hik : i = k
    · subst hik; simp [(List.nodup_cons.mp hl).1]
    · simp [hik, Ne.symm hik]

/-- A loop whose round `i` rewrites channel `i` by `g`, and no other, rewrites every channel by `g`. -/
theorem forChans_modify (body : Nat → State → State) (g : Channel → Channel)
    (h : ∀ i s, (body i s).ch = s.ch.modify i g) (s : State) : (forChans body s).ch = s.ch.map g := by
  apply List.ext_getElem?
  intro k
  unfold forChans
  rw [foldl_modify_ch body g h _ _ _ List.nodup_range]
  by_cases hk : k < s.ch.length <;> simp [State.chanCount, hk]

/-- R115, R113: zero duties and cleared PID state and holds on every channel. -/
theorem forChans_exitChan_ch (s : State) :
    (forChans exitChan s).ch = s.ch.map fun c => clearPid { c with dutyOut := 0 } :=
  forChans_modify _ _ (fun i t => by simp [exitChan, List.modify_modify_eq, Function.comp_def]) s

theorem forChans_disableChan_ch (s : State) :
    (forChans disableChan s).ch = s.ch.map fun c => { clearPid c with dutyOut := 0 } :=
  forChans_modify _ _ (fun i t => by simp [disableChan, List.modify_modify_eq, Function.comp_def]) s

/-! ### Byte order and the CRC trailer -/

@[simp] theorem be16_hi_lo (w : Half) : be16 (hi w) (lo w) = w := by
  apply BitVec.eq_of_getLsbD_eq
  intro i hlt
  simp only [be16, hi, lo, BitVec.getLsbD_or, BitVec.getLsbD_shiftLeft, BitVec.getLsbD_setWidth,
    BitVec.truncate_eq_setWidth, BitVec.getLsbD_extractLsb']
  by_cases h8 : i < 8
  · simp [h8, hlt]
  · have h1 : i - 8 < 8 := by omega
    have h2 : 8 + (i - 8) = i := by omega
    simp [h8, h1, h2, hlt]
    omega

@[simp] theorem hi_be16 (h l : Byte) : hi (be16 h l) = h := by
  apply BitVec.eq_of_getLsbD_eq
  intro i hlt
  have h1 : ¬ 8 + i < 8 := by omega
  simp only [be16, hi, BitVec.getLsbD_or, BitVec.getLsbD_shiftLeft, BitVec.getLsbD_setWidth,
    BitVec.truncate_eq_setWidth, BitVec.getLsbD_extractLsb']
  have h2 : 8 + i < 16 := by omega
  have h4 : 8 + i - 8 = i := by omega
  have h5 : i < 16 := by omega
  simp [hlt, h2, h4, h5, -BitVec.getLsbD_eq_getElem]

@[simp] theorem lo_be16 (h l : Byte) : lo (be16 h l) = l := by
  apply BitVec.eq_of_getLsbD_eq
  intro i hlt
  have h5 : i < 16 := by omega
  simp only [be16, lo, BitVec.getLsbD_or, BitVec.getLsbD_shiftLeft, BitVec.getLsbD_setWidth,
    BitVec.truncate_eq_setWidth, BitVec.getLsbD_extractLsb']
  simp [hlt, h5, -BitVec.getLsbD_eq_getElem]

/-- R90: a string with its own trailer passes the check. -/
@[simp] theorem crcOk_withCrc (s : List Byte) : crcOk (withCrc s) = true := by
  simp [crcOk, withCrc]

end Sys2Proof.Machine
end

