-- ==== Sys2Proof/Laws/PerInstr.lean ====
section
/-! SUPPORT. Facts about every instruction as syntax, one lemma per constructor. -/

namespace Sys2Proof.Laws

/-- The encoding of an instruction has the length of its format (30_encoding.md R70, R80-R83). -/
def EncodeLength.Statement (i : Instr) : Prop := (encode i).length = i.length

theorem EncodeLength.start : EncodeLength.Statement .start := rfl
theorem EncodeLength.stop : EncodeLength.Statement .stop := rfl
theorem EncodeLength.enable (b : Byte) : EncodeLength.Statement (.enable b) := rfl
theorem EncodeLength.stepCycle : EncodeLength.Statement .stepCycle := rfl
theorem EncodeLength.setGains (ch : Byte) (kp ki kd : Pattern) : EncodeLength.Statement (.setGains ch kp ki kd) := rfl
theorem EncodeLength.setSetpoint (ch : Byte) (x : Pattern) : EncodeLength.Statement (.setSetpoint ch x) := rfl
theorem EncodeLength.status : EncodeLength.Statement .status := rfl
theorem EncodeLength.discover : EncodeLength.Statement .discover := rfl
theorem EncodeLength.assign (w : Half) : EncodeLength.Statement (.assign w) := rfl
theorem EncodeLength.readTemp (b : Byte) : EncodeLength.Statement (.readTemp b) := rfl
theorem EncodeLength.crcInit : EncodeLength.Statement .crcInit := rfl
theorem EncodeLength.crcFeed (b : Byte) : EncodeLength.Statement (.crcFeed b) := rfl
theorem EncodeLength.crcRead : EncodeLength.Statement .crcRead := rfl
theorem EncodeLength.mbReq3 (addr : Byte) (reg : Half) : EncodeLength.Statement (.mbReq3 addr reg) := rfl
theorem EncodeLength.mbReq6 (addr : Byte) (data : Half) : EncodeLength.Statement (.mbReq6 addr data) := rfl
theorem EncodeLength.mbResp3 (addr func count : Byte) (data crc : Half) :
    EncodeLength.Statement (.mbResp3 addr func count data crc) := rfl
theorem EncodeLength.mbResp6 (addr func : Byte) (reg data crc : Half) :
    EncodeLength.Statement (.mbResp6 addr func reg data crc) := rfl

end Sys2Proof.Laws
end

