-- ==== Sys2Proof/Tests/Slice0.lean ====
section
/-! SUPPORT. The model's own tests: ill-formed terms that WellFormed refuses, words written out from the spec's encodings, at most two
small tests an instruction, and for every statement with hypotheses a concrete case that meets them. Expected values are those of
95_test_vectors.md (its vector names stand in the comments) or worked by hand from the rules. -/

namespace Sys2Proof.Tests

open Sys2Proof Sys2Proof.Machine

set_option Elab.async false

/-! ### Helpers -/

/-- Reset with one channel: address 1, gains 2.0, 0.5, 1.0, setpoint 180.0 (Program 3). -/
def one : State :=
  State.ofConfig Params.default
    [⟨1, fOfPattern 0x40000000, fOfPattern 0x3F000000, fOfPattern 0x3F800000, fOfPattern 0x43340000⟩]

/-- A running loop in caller mode, with the environment's next answers. -/
def caller (en : Bool) (rx : List (List Byte)) (act : List Bool) (now : List Nat) : State :=
  { one with
    loop := if en then .runEn else .runDis, enabled := en, running := true, mode := .caller
    env := ⟨rx, act, [], now, 0, 0⟩ }

/-- A background engine waiting between cycles, with the inbox it will meet. -/
def engine (inbox : List Input) : State :=
  { one with loop := .runDis, running := true, mode := .background, seq := .wait, inbox := inbox, env := ⟨[], [true, true], [], [7], 0, 0⟩ }

/-- The read of channel 0. -/
def read0 : Txn := newTxn (req3 1 0) 7 1 .resp3

/-- A background engine inside a cycle at the response wait of channel 0. -/
def waiting0 (en : Bool) (inbox : List Input) : State :=
  { engine inbox with
    loop := if en then .runEn else .runDis, enabled := en, lock := .engine, seq := .cycle 0
    txn := some { read0 with sent := true } }

/-- The next state of an outcome. -/
def after (o : Host.Outcome State Fault Refusal) : State :=
  match o with
  | .next t => t
  | _ => State.reset

/-- An outcome with a next state has it (the fault type is empty, and no refusal occurs). -/
def completes (o : Host.Outcome State Fault Refusal) : Bool :=
  match o with
  | .next _ => true
  | _ => false

theorem next_of_completes (o : Host.Outcome State Fault Refusal) (h : completes o = true) : o = .next (after o) := by
  cases o with
  | next t => rfl
  | fault r => cases r
  | refused r => simp [completes] at h

/-- The response of slave 1 with 180.0 degrees (VC8). -/
def good : List Byte := [0x01, 0x03, 0x02, 0x07, 0x08, 0xBB, 0xB2]

/-- It with one flipped bit (VX3). -/
def bad : List Byte := [0x01, 0x03, 0x02, 0x07, 0x08, 0xBB, 0xB3]

/-- The discovery response of slave 3 (VC7), and one with a data value above 0xFF (VC22). -/
def found : List Byte := [0x03, 0x03, 0x02, 0x00, 0x03, 0x81, 0x85]
def unusable : List Byte := [0x11, 0x03, 0x02, 0x01, 0x00, 0x78, 0x17]

/-- The write request 3 to 5, which is also its echo (VC9), and the echo of another value (VC23). -/
def echo : List Byte := [0x03, 0x06, 0x00, 0x02, 0x00, 0x05, 0xE9, 0xEB]
def wrongEcho : List Byte := [0x03, 0x06, 0x00, 0x02, 0x00, 0x06, 0xA9, 0xEA]

/-! ### WellFormed refuses each ill-formed term -/

theorem test_wf_enable : Instr.wellFormed Params.default 6 (.enable 2) = false := by decide +kernel
theorem test_wf_gains_channel : Instr.wellFormed Params.default 6 (.setGains 6 0 0 0) = false := by decide +kernel
theorem test_wf_gains_kp : Instr.wellFormed Params.default 6 (.setGains 0 0x7F800000 0 0) = false := by decide +kernel
theorem test_wf_gains_ki : Instr.wellFormed Params.default 6 (.setGains 0 0 0x7FC00000 0) = false := by decide +kernel
theorem test_wf_gains_kd : Instr.wellFormed Params.default 6 (.setGains 0 0 0 0xFF800000) = false := by decide +kernel
theorem test_wf_setpoint_channel : Instr.wellFormed Params.default 6 (.setSetpoint 0xFF 0) = false := by decide +kernel
theorem test_wf_setpoint_value : Instr.wellFormed Params.default 6 (.setSetpoint 0 0x7F800001) = false := by decide +kernel
theorem test_wf_read_temp_low : Instr.wellFormed Params.default 6 (.readTemp 0) = false := by decide +kernel
theorem test_wf_read_temp_high : Instr.wellFormed Params.default 6 (.readTemp 255) = false := by decide +kernel
theorem test_wf_req3 : Instr.wellFormed Params.default 6 (.mbReq3 1 1) = false := by decide +kernel
theorem test_wf_accepts : Instr.wellFormed Params.default 6 (.setGains 5 0x40000000 0x3F000000 0x3F800000) = true := by decide +kernel

/-! ### Words written from R70-R72 and R80-R83 -/

theorem test_decode_start : decode .host [0x01] = .ok .start := by decide +kernel
theorem test_decode_stop : decode .host [0x02] = .ok .stop := by decide +kernel
theorem test_decode_enable : decode .host [0x03, 0x01] = .ok (.enable 1) := by decide +kernel
theorem test_decode_step : decode .host [0x04] = .ok .stepCycle := by decide +kernel
theorem test_decode_set_gains :
    decode .host [0x05, 0x00, 0x40, 0x00, 0x00, 0x00, 0x3F, 0x00, 0x00, 0x00, 0x3F, 0x80, 0x00, 0x00] =
      .ok (.setGains 0 0x40000000 0x3F000000 0x3F800000) := by decide +kernel
theorem test_decode_set_setpoint :
    decode .host [0x06, 0x01, 0x43, 0x48, 0x00, 0x00] = .ok (.setSetpoint 1 0x43480000) := by decide +kernel
theorem test_decode_status : decode .host [0x07] = .ok .status := by decide +kernel
theorem test_decode_discover : decode .host [0x08] = .ok .discover := by decide +kernel
theorem test_decode_assign : decode .host [0x09, 0x12, 0x34] = .ok (.assign 0x1234) := by decide +kernel
theorem test_decode_read_temp : decode .host [0x0A, 0x05] = .ok (.readTemp 5) := by decide +kernel
theorem test_decode_crc_init : decode .host [0x10] = .ok .crcInit := by decide +kernel
theorem test_decode_crc_feed : decode .host [0x11, 0x31] = .ok (.crcFeed 0x31) := by decide +kernel
theorem test_decode_crc_read : decode .host [0x12] = .ok .crcRead := by decide +kernel
theorem test_decode_mb_req3 :
    decode .tx [0xFF, 0x03, 0x00, 0x02, 0x00, 0x01, 0x30, 0x14] = .ok (.mbReq3 0xFF 0x0002) := by decide +kernel
theorem test_decode_mb_req6 : decode .tx [0x03, 0x06, 0x00, 0x02, 0x12, 0x34, 0x24, 0x9F] = .ok (.mbReq6 0x03 0x1234) := by
  decide +kernel
theorem test_decode_mb_resp3 : decode .rx3 good = .ok (.mbResp3 1 3 2 0x0708 0xB2BB) := by decide +kernel
theorem test_decode_mb_resp6 : decode .rx6 echo = .ok (.mbResp6 3 6 2 5 0xEBE9) := by decide +kernel
/-- A request with its trailer in the wrong byte order is none. -/
theorem test_decode_trailer_order :
    decode .tx [0xFF, 0x03, 0x00, 0x02, 0x00, 0x01, 0x14, 0x30] = .error .notARequest := by decide +kernel
/-- The table words of rows with operand bytes and of an emitted frame. -/
theorem test_table_word : decodeTableWord 16 0x0103 = some (.enable 1) ∧ decodeTableWord 24 0x340209 = some (.assign 0x0234) ∧
    decodeTableWord 64 0x03 = some (.mbReq3 0 0) ∧ decodeTableWord 8 0x12 = some .crcRead := by decide +kernel
/-- The step after the placement of a table word runs it. -/
theorem test_fetch_word : (after (step (State.reset.withFetchWord 16 0x0111))).crcHost = 0x807E := by decide +kernel

/-! ### Instructions -/

/-- VL2: the spawn fails. -/
theorem test_start : (after (exec .start { one with env := ⟨[], [], [false], [], 0, 0⟩ })).mode = .caller := by decide +kernel
/-- VL12 -/
theorem test_start_refused : (after (exec .start { one with loop := .terminated })).replies = [[0x13]] := by decide +kernel
/-- VL8 -/
theorem test_stop : (after (exec .stop (caller true [] [true, true] []))).events = [.duty 0 0, .ready false] := by decide +kernel
/-- VE18: STOP in IDLE. -/
theorem test_stop_refused : (after (exec .stop one)).replies = [[0x13]] := by decide +kernel
/-- VS1, W7: reading 140.0 snaps to stage 2. -/
theorem test_enable : (after (exec (.enable 1) { caller false [] [] [] with
    ch := one.ch.map fun c => { c with lastReading := some (fOfPattern 0x430C0000) } })).ch.map (·.stage) = [2] := by decide +kernel
/-- VL7 -/
theorem test_disable : (after (exec (.enable 0) (caller true [] [true, false] []))).events =
    [.duty 0 0, .ready false, .log (.readyFailed false)] := by decide +kernel
/-- Program 3, line 4: reading 137.5 at 10000 on stage 2 starts the hold, duty 0, integral -2.5. -/
theorem test_step : ((after (exec .stepCycle { caller true [[0x01, 0x03, 0x02, 0x05, 0x5F, 0xFB, 0x2C]] [true, true] [10000] with
    ch := one.ch.map fun c => { c with stage := 2 } })).ch.map fun c => (c.holdSince, c.iAcc, c.dutyOut)) =
      [(some 10000, fOfPattern 0xC0200000, 0)] := by decide +kernel
/-- Program 3, line 6: a timeout gives no reading and duty 0. -/
theorem test_step_timeout : (after (exec .stepCycle (caller true [[]] [true, true] [71000]))).events =
    [.tx [0x01, 0x03, 0x00, 0x00, 0x00, 0x01, 0x84, 0x0A], .timeout, .reset, .log (.attemptFailed 1 .timeout 1),
      .log (.noReading 0 .busTimeout), .duty 0 0, .ready false] := by decide +kernel
theorem test_set_gains : ((after (exec (.setGains 0 0x3F800000 0x80000000 0x40000000) one)).ch.map fun c => (c.kp, c.ki, c.kd)) =
    [(.fin false 1 0, .fin true 0 0, .fin false 1 1)] := by decide +kernel
/-- R118's example: targets 50, 100, 150, 200. -/
theorem test_set_setpoint : ((after (exec (.setSetpoint 0 0x43480000) one)).ch.map fun c => c.stageT) =
    [⟨fOfPattern 0x42480000, fOfPattern 0x42C80000, fOfPattern 0x43160000, fOfPattern 0x43480000⟩] := by decide +kernel
/-- R119's example. -/
theorem test_status : (after (exec .status one)).replies = [[0, 0, 0, 0, 0, 0, 0, 0, 0, 0, 0, 0, 0]] := by decide +kernel
/-- Program 3, line 8: the record of a channel with a reading of 179.0 at stage 3. -/
theorem test_status_record : statusRecord { one.ch.headD (Channel.ofConfig Params.default 0 ⟨1, .zero, .zero, .zero, .zero⟩) with
    lastReading := some (fOfPattern 0x43330000), stage := 3 } = [0x01, 0x43, 0x33, 0x00, 0x00, 0x03, 0x00] := by decide +kernel
/-- VX8: a bad CRC, then the address. -/
theorem test_discover : (after (exec .discover { one with env := ⟨[[0x03, 0x03, 0x02, 0x00, 0x03, 0x81, 0x84], found], [], [], [], 0, 0⟩ })).replies =
    [[0x00, 0x03]] := by decide +kernel
/-- VX7: a data value above 0xFF, then timeouts. -/
theorem test_discover_none : (after (exec .discover { one with env := ⟨[unusable, [], []], [], [], [], 0, 0⟩ })).replies = [[0x03]] := by
  decide +kernel
/-- VX9 -/
theorem test_assign : (after (exec (.assign 5) { one with env := ⟨[found, echo], [], [], [], 0, 0⟩ })).events =
    [.tx [0xFF, 0x03, 0x00, 0x02, 0x00, 0x01, 0x30, 0x14], .rx found, .tx echo, .rx echo] := by decide +kernel
/-- VX11 -/
theorem test_assign_unconfirmed : (after (exec (.assign 5) { one with
    env := ⟨[found, [], wrongEcho, [0x03, 0x06, 0x00, 0x02, 0x00, 0x05, 0xE9, 0xEA]], [], [], [], 0, 0⟩ })).replies = [[0x04]] := by decide +kernel
/-- W9, VX1 -/
theorem test_read_temp : (after (exec (.readTemp 1) { one with env := ⟨[good], [], [], [], 0, 0⟩ })).replies =
    [[0x00, 0x43, 0x34, 0x00, 0x00]] := by decide +kernel
/-- VX3 -/
theorem test_read_temp_crc : (after (exec (.readTemp 1) { one with env := ⟨[bad], [], [], [], 0, 0⟩ })).replies = [[0x02]] := by decide +kernel
/-- VH1 -/
theorem test_crc_init : (after (exec .crcInit { one with crcHost := 0x1430 })).crcHost = 0xFFFF := by decide +kernel
/-- VH5 -/
theorem test_crc_feed : (after (exec (.crcFeed 0x30) { one with crcHost := 0x1430 })).crcHost = 0x0014 := by decide +kernel
/-- VH3 -/
theorem test_crc_read : (after (exec .crcRead { one with crcHost := 0x807E })).replies = [[0x00, 0x80, 0x7E]] := by decide +kernel
/-- VM1 -/
theorem test_mb_req3 : (after (exec (.mbReq3 0xFF 2) { one with rxbuf := [9] })).events =
    [.tx [0xFF, 0x03, 0x00, 0x02, 0x00, 0x01, 0x30, 0x14]] := by decide +kernel
/-- VM3 -/
theorem test_mb_req6 : (after (exec (.mbReq6 3 5) one)).events = [.tx echo] := by decide +kernel
/-- W9 in a background cycle. -/
theorem test_mb_resp3 : (after (exec (.mbResp3 1 3 2 0x0708 0xB2BB) (waiting0 false []))).ch.map (·.lastReading) =
    [some (fOfPattern 0x43340000)] := by decide +kernel
/-- VM11: the CRC is checked before the content. -/
theorem test_mb_resp6 : (after (exec (.mbResp6 3 6 2 5 0xEAE9) { one with
    txn := some { newTxn (req6 3 5) 8 3 .echo with sent := true } })).events =
      [.rx [0x03, 0x06, 0x00, 0x02, 0x00, 0x05, 0xE9, 0xEA], .reset, .log (.attemptFailed 3 .crcBad 1)] := by decide +kernel
/-- R78: SET_CHANNEL is two commands; R77: its text. -/
theorem test_text : parseLine "SET_CHANNEL 0, 2.0, 0.5, 1.0, 180.0 ; zone".toList =
    some [.setGains 0 0x40000000 0x3F000000 0x3F800000, .setSetpoint 0 0x43340000] := by decide +kernel

/-! ### Datapath -/

/-- VP8, VP9: ties to even. -/
theorem test_quant : quant (fOfPattern 0x40200000) = 2 ∧ quant (fOfPattern 0x40600000) = 4 ∧ quant (.fin true 0 0) = 0 := by decide +kernel
/-- VT3, VT8 -/
theorem test_temp : temp Params.default 1 = fOfPattern 0x3DCCCCCD ∧ temp Params.default 506 = fOfPattern 0x424A6666 := by decide +kernel
/-- VA3 -/
theorem test_advance : ((one.ch.map fun c => advance Params.default (some (fOfPattern 0x42200000)) 60000 { c with holdSince := some 0 }).map
    fun c => (c.stage, c.holdSince)) = [(1, none)] := by decide +kernel

/-! ### Witnesses: for each statement with hypotheses, a case that meets them -/

/-- Where host messages wait to be read. -/
def withMessage (m : List Byte) : State := { one with inbox := [.host m] }

theorem takesInput_one (inbox : List Input) : takesInput { one with inbox := inbox } := ⟨.inl rfl, trivial⟩
theorem takesInput_engine (inbox : List Input) : takesInput (engine inbox) := ⟨.inl rfl, trivial⟩
theorem takesInput_waiting0 (en : Bool) (inbox : List Input) : takesInput (waiting0 en inbox) := ⟨.inl rfl, rfl⟩

theorem seqInv_one (inbox : List Input) (c : Half) : seqInv { one with inbox := inbox, crcHost := c } := by
  simp [seqInv, one, State.ofConfig, inCycle, loopRuns]

theorem seqInv_waiting0 (en : Bool) (inbox : List Input) : seqInv (waiting0 en inbox) := by
  cases en <;>
    simp [seqInv, waiting0, engine, one, State.ofConfig, inCycle, loopRuns, State.chanCount, Channel.ofConfig, read0, newTxn,
      Params.default, Params.defaultWith, Params.defaultIn]

theorem witness_DecodedBytesReencode :
    decode .host [0x12] = .ok .crcRead ∧ decode .tx (req3 0 0xFFFF) = .ok (.mbReq3 0 0xFFFF) ∧
      decode .rx3 (List.replicate 7 0xFF) = .ok (.mbResp3 0xFF 0xFF 0xFF 0xFFFF 0xFFFF) ∧
      decode .rx6 (List.replicate 8 0) = .ok (.mbResp6 0 0 0 0 0) := by decide +kernel

theorem witness_HostMessageDecoding_point (m : List Byte) : takesInput (withMessage m) ∧ (withMessage m).inbox = .host m :: [] :=
  ⟨takesInput_one _, rfl⟩
theorem witness_HostMessageDecoding_reserved :
    reservedOpcode 0x00 ∧ reservedOpcode 0x0B ∧ reservedOpcode 0x0F ∧ reservedOpcode 0x13 ∧ reservedOpcode 0xFF ∧
      ¬ reservedOpcode 0x0A ∧ ¬ reservedOpcode 0x10 ∧ ¬ reservedOpcode 0x12 := by unfold reservedOpcode; decide +kernel
theorem witness_HostMessageDecoding_length : ([0x11] : List Byte).length ≠ 2 ∧ ([0x10, 0x00] : List Byte).length ≠ 1 := by
  decide +kernel
theorem witness_HostMessageDecoding_operand :
    Instr.port (.readTemp 255) = .host ∧ Instr.wellFormed one.par one.chanCount (.readTemp 255) = false ∧
      Instr.wellFormed one.par one.chanCount (.setSetpoint 1 0) = false := by decide +kernel
theorem witness_HostMessageDecoding_run :
    Instr.port (.readTemp 254) = .host ∧ Instr.wellFormed one.par one.chanCount (.readTemp 254) = true ∧
      Instr.wellFormed one.par one.chanCount (.setSetpoint 0 0) = true := by decide +kernel

theorem witness_ReservedValuesRefused_opcode :
    takesInput (withMessage [0x13, 1]) ∧ (withMessage [0x13, 1]).inbox = .host (0x13 :: [1]) :: [] ∧ reservedOpcode 0x13 :=
  ⟨takesInput_one _, rfl, by unfold reservedOpcode; decide +kernel⟩
theorem witness_ReservedValuesRefused_values :
    (2 : Byte) ≠ 0 ∧ (2 : Byte) ≠ 1 ∧ one.chanCount ≤ (1 : Byte).toNat ∧ fIsFinite (operandF one.par 0x7F800000) = false ∧
      (0 : Byte) < one.par.addrMin ∧ one.par.addrMax < (255 : Byte) := by decide +kernel

theorem witness_FloatOperandRoundTrip : fIsFinite (fOfPattern 0x00000001) = true ∧ fIsFinite (fOfPattern 0x7F7FFFFF) = true ∧
    fIsFinite (fOfPattern 0x80000000) = true := by decide +kernel

theorem witness_RoundingIsNearest : fRound Fmt.binary32 false (2 ^ 25 - 1) 103 = .inf false ∧
    fRound Fmt.binary32 true (2 ^ 26 - 3) 102 = .fin true (2 ^ 24 - 1) 104 ∧ fRound Fmt.binary32 false 3 (-151) = .fin false 1 (-149) ∧
    fRound Fmt.binary32 false 0 5 = .fin false 0 0 := by decide +kernel
/-- Ties: 2^24 + 1 and 2^24 + 3 to the even neighbours 2^24 and 2^24 + 4; half the least value to 0; 1 - 1 to +0, -0 - (+0) to -0;
an exact tie of a sum; 3 times the greatest value overflows. -/
theorem witness_RoundingIsNearest_ties : fRound Fmt.binary32 false (2 ^ 24 + 1) 0 = .fin false 1 24 ∧
    fRound Fmt.binary32 true (2 ^ 24 + 3) 0 = .fin true (2 ^ 22 + 1) 2 ∧ fRound Fmt.binary32 false 1 (-150) = .fin false 0 0 ∧
    fSub Fmt.binary32 (.fin false 1 0) (.fin false 1 0) = .zero ∧
    fSub Fmt.binary32 (.fin true 0 0) (.fin false 0 0) = .fin true 0 0 ∧
    fAdd Fmt.binary32 (.fin true 1 24) (.fin true 1 0) = .fin true 1 24 ∧
    fMul Fmt.binary32 (.fin false 3 0) (.fin true (2 ^ 24 - 1) 104) = .inf true := by decide +kernel
/-- Quotients: a tenth (0x3DCCCCCD), an overflow, an exact tie of subnormals (3 over 2 in the least unit) to 2, a zero divisor. -/
theorem witness_RoundingIsNearest_quotients :
    fDiv Fmt.binary32 (.fin false 1 0) (.fin false 5 1) = fOfPattern 0x3DCCCCCD ∧
    fDiv Fmt.binary32 (.fin true (2 ^ 24 - 1) 104) (.fin false 1 (-1)) = .inf true ∧
    fDiv Fmt.binary32 (.fin false 3 (-149)) (.fin false 1 1) = .fin false 1 (-148) ∧
    fDiv Fmt.binary32 (.fin true 1 0) (.fin false 0 0) = .inf true ∧ fDiv Fmt.binary32 .zero .zero = .nan := by decide +kernel

theorem witness_CrcResidueAndTable : 2 ≤ ([0xFF, 0xFF] : List Byte).length ∧ crcOk [0xFF, 0xFF] = true := by decide +kernel
theorem witness_CrcDetectsEveryBitFlip : crcOk good = true ∧ 0 < good.length ∧ 6 < good.length ∧ 7 < 8 := by decide +kernel

theorem witness_CrcAccumulatorIsolated_other : Instr.crcRead ≠ .crcInit ∧ (∀ b, Instr.crcRead ≠ .crcFeed b) ∧
    exec .crcRead one = .next (after (exec .crcRead one)) := ⟨by decide, fun _ => by simp, rfl⟩
theorem witness_CrcAccumulatorIsolated_step :
    seqInv { one with inbox := [.host [0x10]], crcHost := 5 } ∧
      (after (step { one with inbox := [.host [0x10]], crcHost := 5 })).crcHost ≠ 5 := ⟨seqInv_one _ _, by decide +kernel⟩

/-- The engine between channels and transmissions: channel 0, no transaction; and its request to transmit. -/
def atChannel : State := { waiting0 false [] with txn := none }
def toTransmit : State := { waiting0 false [] with txn := some read0 }

theorem seqInv_toTransmit : seqInv toTransmit := by
  simp [seqInv, toTransmit, waiting0, engine, one, State.ofConfig, inCycle, loopRuns, State.chanCount, Channel.ofConfig, read0, newTxn,
    Params.default, Params.defaultWith, Params.defaultIn]
theorem witness_OnlyRequestsEmitted : seqInv toTransmit ∧ step toTransmit = .next (after (step toTransmit)) ∧
    (after (step toTransmit)).events = [.tx (req3 1 0)] := ⟨seqInv_toTransmit, next_of_completes _ (by decide +kernel), by decide +kernel⟩

theorem witness_EchoComparison : echo.length = 8 ∧ wrongEcho.length = 8 ∧ crcOk [0x03, 0x06, 0x00, 0x02, 0x00, 0x05, 0xE9, 0xEA] = false ∧
    crcOk wrongEcho = true ∧ wrongEcho[5]? ≠ echo[5]? ∧ crcOk echo = true := by decide +kernel

/-- A state with scripted bus answers. -/
def scripted (rx : List (List Byte)) : State := { one with env := ⟨rx, [], [], [], 0, 0⟩ }

theorem witness_TransactionOutcomes_accepted :
    (∀ b ∈ [[], bad], ∃ c, judge (newTxn (req3 1 0) 7 3 .resp3) (answerOf 7 b) = .error c) ∧ [[], bad].length < 3 ∧
      (scripted [[], bad, good]).env.rx = [[], bad] ++ good :: [] ∧
      judge (newTxn (req3 1 0) 7 3 .resp3) (answerOf 7 good) = .ok 0x0708 := by
  refine ⟨?_, by decide +kernel, rfl, by decide +kernel⟩
  intro b hb
  rcases List.mem_cons.mp hb with rfl | hb
  · exact ⟨.timeout, by decide +kernel⟩
  · rw [List.mem_singleton.mp hb]; exact ⟨.crcBad, by decide +kernel⟩
theorem witness_TransactionOutcomes_exhausted :
    [bad].length = 1 ∧ [bad].getLast? = some bad ∧ (scripted [bad]).env.rx = [bad] ++ [] ∧
      judge (newTxn (req3 1 0) 7 1 .resp3) (answerOf 7 bad) = .error .crcBad := by decide +kernel

theorem witness_ReadTempOutcomes : one.par.addrMin ≤ 1 ∧ (254 : Byte) ≤ one.par.addrMax ∧ one.loop = .idle ∧ one.seq = .stopped ∧
    ([] : List (List Byte)).length < one.par.attRead ∧ (scripted [good]).env.rx = [] ++ good :: [] ∧
    readingOf one.par good = some (fOfPattern 0x43340000) ∧ readingOf one.par bad = none ∧ readingOf one.par (good.take 6) = none ∧
    0 + 1 = one.par.attRead := by decide +kernel

theorem witness_DiscoverOutcomes : (∀ x ∈ [unusable, []], discAnswer x = none) ∧ [unusable, []].length < one.par.attDisc ∧
    discAnswer found = some 3 ∧ (scripted [unusable, [], found]).env.rx = [unusable, []] ++ found :: [] ∧ 1 ≤ one.par.attDisc ∧
    [unusable, [], bad].length = one.par.attDisc ∧ (∀ x ∈ [unusable, [], bad], discAnswer x = none) := by decide +kernel

theorem witness_AssignOutcomes : discAnswer found = some 3 ∧ (∀ x ∈ [[], wrongEcho], echoConfirms (req6 3 5) x = false) ∧
    [[], wrongEcho].length < one.par.attWrite ∧ echoConfirms (req6 3 5) echo = true ∧
    (scripted [found, [], wrongEcho, echo]).env.rx = [] ++ found :: ([[], wrongEcho] ++ echo :: []) ∧ 1 ≤ one.par.attWrite ∧
    (∀ x ∈ [[], wrongEcho, bad], echoConfirms (req6 3 5) x = false) ∧ [[], wrongEcho, bad].length = one.par.attWrite := by
  decide +kernel

theorem witness_WrongStateRefused : ¬ (((engine []).loop = .idle ∨ (engine []).loop = .terminated) ∧ (engine []).seq = .stopped) ∧
    (engine []).mode ≠ .caller ∧ ({ one with mode := .caller } : State).loop ≠ .runDis ∧
    ({ caller true [] [] [] with running := false } : State).running = false := by decide +kernel

theorem witness_RequestEmitted : toTransmit.txn = some read0 ∧ read0.req = req3 1 0 ∧ one.txn = none ∧ read0.req ≠ req3 2 0 ∧
    (newTxn (req6 3 5) 8 3 .echo).req = req6 3 5 := by decide +kernel

theorem witness_EngineReadsChannel : atChannel.waiting = [] ∧ atChannel.running = true ∧ atChannel.txn = none ∧ atChannel.seq = .cycle 0 ∧
    atChannel.ch[0]?.isSome = true := by decide +kernel

theorem witness_ResponseInCycle : (waiting0 true []).txn = some { read0 with sent := true } ∧ read0.len = 7 ∧ read0.kind = .resp3 ∧
    (waiting0 true []).seq = .cycle 0 ∧ (waiting0 true []).ch[0]?.isSome = true ∧
    crcOk [1, 3, 2, hi 0x0708, lo 0x0708, lo 0xB2BB, hi 0xB2BB] = true ∧ (waiting0 true []).env.act = true :: [true] ∧
    (waiting0 true []).loop = .runEn ∧ (waiting0 true []).env.now = 7 :: [] ∧ (waiting0 false []).loop ≠ .runEn := by decide +kernel

theorem witness_FailedAttemptInCycle : crcOk [1, 3, 2, hi 0x0708, lo 0x0708, lo 0xB3BB, hi 0xB3BB] = false ∧
    read0.lim ≤ read0.attempt ∧ (newTxn (req3 1 0) 7 2 .resp3).attempt < (newTxn (req3 1 0) 7 2 .resp3).lim ∧
    (waiting0 true [.timeout]).running = true ∧ takesInput (waiting0 true [.timeout]) :=
  ⟨by decide +kernel, by decide, by decide, rfl, takesInput_waiting0 _ _⟩

theorem witness_FramesOutsideCycle : one.txn = none ∧ (newTxn (req6 3 5) 8 3 .echo).len = 8 ∧ (∀ k, one.seq ≠ .cycle k) ∧
    echo6 [3, 6, hi 2, lo 2, hi 5, lo 5, lo 0xEBE9, hi 0xEBE9] (req6 3 5) = .ok () ∧
    echo6 [3, 6, hi 2, lo 2, hi 6, lo 6, lo 0xEAA9, hi 0xEAA9] (req6 3 5) = .error .echoBad ∧
    (newTxn (req6 3 5) 8 1 .echo).lim ≤ (newTxn (req6 3 5) 8 1 .echo).attempt ∧
    (newTxn (req6 3 5) 8 3 .echo).attempt < (newTxn (req6 3 5) 8 3 .echo).lim :=
  ⟨rfl, rfl, fun _ => by simp [one, State.ofConfig], by decide +kernel, by decide +kernel, by decide, by decide⟩

theorem witness_StageTargetsExact : fIsFinite (fOfPattern 0x43340000) = true ∧
    (2 : ℚ) ^ (-124 : Int) ≤ |fVal (fOfPattern 0x01800000)| ∧ fOfPattern 0x80000000 = .fin true 0 0 := by
  refine ⟨by decide +kernel, ?_, by decide +kernel⟩
  have h : fOfPattern 0x01800000 = .fin false 1 (-124) := by decide +kernel
  rw [h]; norm_num [fVal]

/-- The one channel of `one`. -/
def chan0 : Channel := Channel.ofConfig Params.default 0
  ⟨1, fOfPattern 0x40000000, fOfPattern 0x3F000000, fOfPattern 0x3F800000, fOfPattern 0x43340000⟩

/-- 46.0 is within 5 of the first target 45, 40.0 exactly 5 below it; 51.0 is not within. -/
theorem witness_HoldThenAdvance :
    fLe (fAbs (fSub Fmt.binary32 (fOfPattern 0x42380000) (stageOf chan0.stageT chan0.stage))) Params.default.stageTol = true ∧
    fLe (fAbs (fSub Fmt.binary32 (fOfPattern 0x42200000) (stageOf chan0.stageT chan0.stage))) Params.default.stageTol = true ∧ chan0.holdSince = none ∧
    (∀ u ∈ [1000, 60999], 1000 ≤ u ∧ u < 1000 + Params.default.holdMs) ∧ 1000 + Params.default.holdMs ≤ 61000 ∧
    fLe (fAbs (fSub Fmt.binary32 (fOfPattern 0x424C0000) (stageOf chan0.stageT chan0.stage))) Params.default.stageTol = false := by
  decide +kernel

/-- A reading equal to the third target 135. -/
theorem witness_SnapTakesHighestStage : chan0.lastReading = none ∧
    fLe (stageOf chan0.stageT 2) (fOfPattern 0x43070000) = true ∧ fLe (stageOf chan0.stageT 3) (fOfPattern 0x43070000) = false := by
  decide +kernel

/-- 44.75 is 0.25 below the target 45, 44.5 is 0.5 below it. -/
theorem witness_ComputeStaysInBounds :
    fLt (fAbs (fSub Fmt.binary32 (target chan0) (fOfPattern 0x42330000))) Params.default.deadband = true ∧
    fLt (fAbs (fSub Fmt.binary32 (target chan0) (fOfPattern 0x42320000))) Params.default.deadband = false := by decide +kernel
/-- R108: a NaN, below, above, -0.0 at the lower bound +0.0, at the upper bound; R109 with an integral that meets its bound: reading 44.5,
integral 100, previous error 0 give 1 + 50 + 0.5. -/
theorem witness_ComputeStaysInBounds_clamp : fLt (.fin true 35 (-2)) .zero = true ∧ fLt (fOfPattern 0x42C80000) (fOfPattern 0x431B4000) = true ∧
    clamp .nan .zero (fOfPattern 0x42C80000) = .zero ∧ clamp (.fin true 0 0) .zero (fOfPattern 0x42C80000) = .fin true 0 0 ∧
    clamp (fOfPattern 0x42C80000) .zero (fOfPattern 0x42C80000) = fOfPattern 0x42C80000 ∧
    compute Params.default (some (fOfPattern 0x42320000)) { chan0 with iAcc := fOfPattern 0x42C80000 } =
      ({ chan0 with iAcc := fOfPattern 0x42C80000, prevErr := fOfPattern 0x3F000000 }, fOfPattern 0x424E0000) := by decide +kernel

theorem witness_QuantNearestTiesToEven : ((100 : Nat) : ℚ) * (2 : ℚ) ^ (0 : Int) ≤ 100 ∧
    |(quant (.fin false 5 (-1)) : ℚ) - ((5 : Nat) : ℚ) * (2 : ℚ) ^ (-1 : Int)| = 1 / 2 := by
  have h : quant (.fin false 5 (-1)) = 2 := by decide +kernel
  rw [h]; norm_num [abs_of_neg]

theorem witness_StartCommand : one.lock = .free ∧ one.loop = .idle ∧ ({ one with loop := .terminated } : State).loop ≠ .idle := by
  decide +kernel
theorem witness_EnableCommand : (caller false [] [] []).lock = .free ∧ (caller false [] [] []).loop = .runDis ∧
    (caller false [] [] []).running = true ∧ (caller true [] [] []).loop = .runEn ∧ one.loop = .idle ∧ (2 : Byte) ≠ 0 ∧ (2 : Byte) ≠ 1 := by
  decide +kernel
theorem witness_StopCommand : (caller true [] [] []).loop = .runEn ∧ (caller true [] [] []).running = true ∧
    (caller true [] [] []).mode = .caller ∧ (caller true [] [] []).lock = .free ∧ (engine []).loop = .runDis ∧
    (engine []).running = true ∧ (engine []).mode = .background ∧ (engine []).seq ≠ .stopped ∧
    ({ engine [] with seq := .stopped } : State).seq = .stopped ∧ one.loop = .idle := by decide +kernel
theorem witness_CallerCycleIsChannelwise_enabled : (caller true [good] [true, false] [10]).loop = .runEn ∧
    (caller true [good] [true, false] [10]).par.attRead = 1 ∧ [good].length = (caller true [good] [true, false] [10]).chanCount ∧
    [good].getLast? = some good ∧ (caller true [good] [true, false] [10]).env.rx = [good] ++ [] ∧
    (caller true [good] [true, false] [10]).env.act = [true] ++ false :: [] ∧
    (caller true [good] [true, false] [10]).env.now = [10] ++ [] := by decide +kernel
theorem witness_CallerCycleIsChannelwise_disabled : (caller false [[]] [true, true] []).loop = .runDis ∧
    (caller false [[]] [true, true] []).env.rx = [[]] ++ [] ∧ (caller false [[]] [true, true] []).env.now = [] ++ [] := by decide +kernel
theorem witness_CycleCommandsOutputsOnce : (caller true [] [] []).mode = .caller ∧ (caller true [] [] []).loop = .runEn ∧
    (caller false [] [] []).loop = .runDis ∧ (caller true [] [] []).running = true ∧ (caller true [] [] []).lock = .free := by
  decide +kernel
theorem witness_SetGainsCommand : one.lock = .free ∧ (0 : Byte).toNat < one.chanCount ∧ fIsFinite (operandF one.par 0x7F7FFFFF) = true ∧
    one.chanCount ≤ (1 : Byte).toNat ∧ fIsFinite (operandF one.par 0xFF800000) = false := by decide +kernel
theorem witness_SetSetpointCommand : State.reset.lock = .free ∧ (5 : Byte).toNat < State.reset.chanCount ∧
    fIsFinite (operandF State.reset.par 0xFF7FFFFF) = true ∧ State.reset.chanCount ≤ (6 : Byte).toNat := by decide +kernel
theorem witness_StatusReport : one.lock = .free ∧ one.ch[0]? = some chan0 := by decide +kernel

theorem witness_WaitingCommandsServed_waits : takesLock .status = true ∧
    Instr.wellFormed one.par one.chanCount .status = true ∧ (waiting0 true []).lock ≠ .free := by decide +kernel
theorem witness_WaitingCommandsServed_served :
    ({ one with waiting := [.cmd .start, .cmd .status] } : State).lock = .free ∧
    ({ one with waiting := [.cmd .start, .cmd .status] } : State).waiting = [Instr.start, .status].map .cmd ∧
    ∀ i ∈ [Instr.start, .status], takesLock i = true ∧ i.wellFormed one.par one.chanCount = true := by decide +kernel

theorem witness_CycleStartAndEnd : (engine [.cycleStart]).seq = .wait ∧ (engine [.cycleStart]).lock = .free ∧
    (engine [.cycleStart]).waiting = [] ∧ (engine [.cycleStart]).running = true ∧ 1 ≤ (engine [.cycleStart]).chanCount ∧
    (engine [.cycleStart]).txn = none ∧ (engine [.cycleStart]).inbox = .cycleStart :: [] ∧
    ({ atChannel with seq := .finish } : State).lock = .engine ∧ ({ atChannel with seq := .finish } : State).env.act = true :: [true] := by
  decide +kernel

theorem witness_StopObserved_between : takesInput { engine [.poll] with running := false } ∧ (engine [.poll]).mode = .background ∧
    (engine [.poll]).seq = .wait ∧ (engine [.poll]).txn = none ∧ (engine [.poll]).lock = .free ∧ (engine [.poll]).inbox = .poll :: [] ∧
    (engine [.cycleStart]).inbox = .cycleStart :: [] := ⟨⟨.inl rfl, trivial⟩, rfl, rfl, rfl, rfl, rfl, rfl⟩
theorem witness_StopObserved_response : takesInput { waiting0 true [.timeout] with running := false } ∧
    (waiting0 true [.timeout]).mode = .background ∧ (waiting0 true [.timeout]).seq = .cycle 0 ∧
    (waiting0 true [.timeout]).txn = some { read0 with sent := true } ∧ (waiting0 true [.poll]).inbox = .poll :: [] :=
  ⟨⟨.inl rfl, rfl⟩, rfl, rfl, rfl, rfl⟩
theorem witness_StopObserved_entering : toTransmit.waiting = [] ∧ toTransmit.mode = .background ∧ toTransmit.seq = .cycle 0 ∧
    toTransmit.txn = some read0 ∧ read0.sent = false ∧ ({ toTransmit with running := false } : State).running = false := by
  decide +kernel
theorem witness_GraceExpiryAnswered : takesInput { engine [.graceOver] with stopWait := true } ∧
    ({ engine [.graceOver] with stopWait := true } : State).inbox = .graceOver :: [] := ⟨⟨.inl rfl, trivial⟩, rfl⟩

theorem witness_StepRunsDecoded_message : takesInput (withMessage [0x12]) ∧ decode .host [0x12] = .ok .crcRead :=
  ⟨takesInput_one _, by decide⟩
theorem witness_StepRunsDecoded_request : toTransmit.waiting = [] ∧ toTransmit.running = true ∧ toTransmit.txn = some read0 ∧ read0.sent = false ∧
    decode .tx read0.req = .ok (.mbReq3 1 0) := by decide +kernel
theorem witness_StepRunsDecoded_response : takesInput (waiting0 true [.bus good]) ∧ (waiting0 true [.bus good]).inbox = .bus good :: [] ∧
    read0.len ≤ ((waiting0 true [.bus good]).rxbuf ++ good).length ∧
    decode (if read0.len = 8 then .rx6 else .rx3) (((waiting0 true [.bus good]).rxbuf ++ good).take read0.len) =
      .ok (.mbResp3 1 3 2 0x0708 0xB2BB) := ⟨takesInput_waiting0 _ _, rfl, by decide, by decide +kernel⟩

/-- Six of the seven awaited bytes, and bytes that no transaction awaits. -/
theorem witness_StepRunsDecoded_incomplete : takesInput (waiting0 true [.bus (good.take 6)]) ∧
    (∀ t, (waiting0 true [.bus (good.take 6)]).txn = some t → ((waiting0 true [.bus (good.take 6)]).rxbuf ++ good.take 6).length < t.len) ∧
    takesInput { one with inbox := [.bus good] } ∧ (∀ t, one.txn = some t → (one.rxbuf ++ good).length < t.len) :=
  ⟨takesInput_waiting0 _ _, fun t h => by cases h; decide, takesInput_one _, fun t h => by cases h⟩

/-- For the statements about a step from a state that meets an invariant: one state meets them all, and it has a next state. -/
theorem witness_step_kept : seqInv (waiting0 true [.timeout]) ∧ controlInv (waiting0 true [.timeout]) ∧
    (waiting0 true [.timeout]).lock = .engine ∧ (waiting0 true [.timeout]).loop = .runEn ∧
    step (waiting0 true [.timeout]) = .next (after (step (waiting0 true [.timeout]))) ∧
    (after (step (waiting0 true [.timeout]))).loop = .runEn := by
  refine ⟨seqInv_waiting0 _ _, ⟨rfl, fun h => absurd rfl h, ?_⟩, rfl, rfl,
    next_of_completes _ (by decide +kernel), by decide +kernel⟩
  decide +kernel
theorem witness_NumericInvariantKept : numericInv State.reset ∧ step State.reset = .next (after (step State.reset)) := by
  refine ⟨⟨⟨_, rfl⟩, ?_⟩, rfl⟩
  have h : ∀ c ∈ State.reset.ch, c.lastReading = none ∧ fIsFinite c.kp = true ∧ fIsFinite c.ki = true ∧ fIsFinite c.kd = true ∧
      fIsFinite c.sp = true ∧ c.stageT = targetsOf Params.default c.sp ∧ fLe (fNeg Params.default.iLim) c.iAcc = true ∧
      fLe c.iAcc Params.default.iLim = true ∧ fIsNan c.prevErr = false ∧ c.dutyOut ≤ 100 := by decide +kernel
  intro c hc
  obtain ⟨h0, h1, h2, h3, h4, h5, h6, h7, h8, h9⟩ := h c hc
  exact ⟨h1, h2, h3, h4, h5, h6, h7, h8, fun m hm => by simp [h0] at hm, h9⟩
/-- Legal at the ends of the address range, with one channel; the greatest finite gain. -/
theorem witness_InvariantsAtReset :
    resetLegal Params.default 2 [⟨1, fOfPattern 0x7F7FFFFF, .zero, .zero, fOfPattern 0x43340000⟩, ⟨254, .zero, .zero, .zero, .zero⟩] = true ∧
    resetLegal Params.default 6 Config.channels = true := by decide +kernel
theorem witness_LoopTransitions_final : step { one with loop := .terminated } = .next (after (step { one with loop := .terminated })) ∧
    (after (step { one with inbox := [.host [0x01]], env := ⟨[], [], [true], [], 0, 0⟩ })).mode ≠ one.mode := ⟨rfl, by decide +kernel⟩
/-- Program 3, line 7: a reading of 179.0 with control enabled commands ready 1. -/
theorem witness_ReadyOnlyWhenReady : Event.ready true ∈
    (after (step { caller true [[0x01, 0x03, 0x02, 0x06, 0xFE, 0x3A, 0x64]] [true, true] [72000] with inbox := [.host [0x04]] })).events := by
  decide +kernel
theorem witness_ResetValues : (State.construct Params.default 6 Config.channels).isSome = true ∧
    State.construct Params.default 0 [] = none ∧ State.construct Params.default 1 [⟨255, .zero, .zero, .zero, .zero⟩] = none ∧
    State.construct Params.default 1 [⟨0, .zero, .zero, .zero, .zero⟩] = none ∧
    Config.channels[5]? = some ⟨6, .zero, .zero, .zero, .zero⟩ := by decide +kernel
theorem witness_RefusalWithoutEffect : exec .stop one = .next (after (exec .stop one)) ∧
    (after (exec .stop one)).replies = one.replies ++ [[0x13]] := ⟨rfl, by decide +kernel⟩

end Sys2Proof.Tests
end

namespace Sys2Proof.Machine

/-! ### R9, R33, R34: the configuration that no operation changes -/

/-- What identifies a channel: its place in the register file and its bus address (R33, R34). -/
def Channel.ident (c : Channel) : Nat × Byte := (c.index, c.addr)

@[simp] theorem clearPid_ident (c : Channel) : (clearPid c).ident = c.ident := rfl

@[simp] theorem snap_ident (c : Channel) : (snap c).ident = c.ident := by
  unfold snap; split <;> rfl

@[simp] theorem enableChan_ident (c : Channel) : (enableChan c).ident = c.ident := snap_ident c

@[simp] theorem advance_ident (p : Params) (m : Option F) (now : Nat) (c : Channel) :
    (advance p m now c).ident = c.ident := by
  unfold advance
  cases m with
  | none => rfl
  | some x =>
    dsimp only
    split
    · cases c.holdSince with
      | none => rfl
      | some t => dsimp only; split <;> rfl
    · rfl

@[simp] theorem compute_ident (p : Params) (m : Option F) (c : Channel) : (compute p m c).1.ident = c.ident := by
  cases m <;> rfl

/-- Rewriting an entry, where there is one, by a channel of the same identity keeps the identities. -/
theorem map_ident_modify (l : List Channel) (i : Nat) (g : Channel → Channel)
    (h : ∀ c, l[i]? = some c → (g c).ident = c.ident) :
    (l.modify i g).map Channel.ident = l.map Channel.ident := by
  apply List.ext_getElem?
  intro k
  rw [List.getElem?_map, List.getElem?_map, List.getElem?_modify]
  by_cases hik : i = k
  · subst hik
    cases hc : l[i]? with
    | none => rfl
    | some c => simp [h c hc]
  · simp [hik]

/-- A loop over the channels keeps the identities if each round does. -/
theorem forChans_ident (body : Nat → State → State)
    (h : ∀ i s, (body i s).ch.map Channel.ident = s.ch.map Channel.ident) (s : State) :
    (forChans body s).ch.map Channel.ident = s.ch.map Channel.ident :=
  forChans_keeps (fun s => s.ch.map Channel.ident) body h s

theorem setDuty_ident (i d : Nat) (s : State) :
    (setDuty i d s).ch.map Channel.ident = s.ch.map Channel.ident := by
  rw [setDuty_ch]; exact map_ident_modify _ _ _ fun _ _ => rfl

@[simp] theorem exitChan_ident (i : Nat) (s : State) : (exitChan i s).ch.map Channel.ident = s.ch.map Channel.ident :=
  (map_ident_modify _ i clearPid fun _ _ => rfl).trans (setDuty_ident i 0 s)

@[simp] theorem disableChan_ident (i : Nat) (s : State) :
    (disableChan i s).ch.map Channel.ident = s.ch.map Channel.ident :=
  (setDuty_ident i 0 _).trans (map_ident_modify _ i clearPid fun _ _ => rfl)

@[simp] theorem engineExit_ident (s : State) : (engineExit s).ch.map Channel.ident = s.ch.map Channel.ident := by
  simp [engineExit, forChans_ident]

@[simp] theorem storeReading_ident (k : Nat) (r : Except ResultCode F) (s : State) :
    (storeReading k r s).ch.map Channel.ident = s.ch.map Channel.ident := by
  cases r <;> exact map_ident_modify _ _ _ fun _ _ => rfl

@[simp] theorem actuate_ident (k : Nat) (s : State) : (actuate k s).ch.map Channel.ident = s.ch.map Channel.ident := by
  unfold actuate
  split
  · rfl
  · next c hc =>
    rw [setDuty_ident, modChan_ch, readNow_ch]
    refine map_ident_modify _ _ _ fun c' hc' => ?_
    obtain rfl : c = c' := Option.some.inj (hc.symm.trans hc')
    simp

@[simp] theorem chanDone_ident (k : Nat) (en : Bool) (r : Except ResultCode F) (s : State) :
    (chanDone k en r s).ch.map Channel.ident = s.ch.map Channel.ident := by
  cases en
  · exact (setDuty_ident k 0 _).trans (storeReading_ident k r s)
  · exact (actuate_ident k _).trans (storeReading_ident k r s)

@[simp] theorem callerChan_ident (en : Bool) (k : Nat) (s : State) :
    (callerChan en k s).ch.map Channel.ident = s.ch.map Channel.ident := by
  unfold callerChan; split <;> simp

@[simp] theorem callerCycle_ident (s : State) : (callerCycle s).ch.map Channel.ident = s.ch.map Channel.ident := by
  simp [callerCycle, forChans_ident]

/-- `t` has the parameters and the channels, by index and address, of `s`. -/
def SameConfig (s t : State) : Prop := t.par = s.par ∧ t.ch.map Channel.ident = s.ch.map Channel.ident

theorem SameConfig.refl (s : State) : SameConfig s s := ⟨rfl, rfl⟩

theorem SameConfig.trans {s t u : State} (h : SameConfig s t) (h' : SameConfig t u) : SameConfig s u :=
  ⟨h'.1.trans h.1, h'.2.trans h.2⟩

/-! ### The engine and its transactions -/

theorem cancel_sameConfig (s : State) : SameConfig s (cancel s) := by simp [SameConfig, cancel]

theorem afterRead_sameConfig (res : Except Cause Half) (s : State) : SameConfig s (afterRead res s) := by
  unfold afterRead; split <;> simp [SameConfig]

theorem onAnswer_sameConfig (t : Txn) (r : Option (List Byte)) (s : State) : SameConfig s (onAnswer t r s) := by
  unfold onAnswer
  split
  · exact SameConfig.trans (by simp [SameConfig]) (afterRead_sameConfig _ _)
  · dsimp only
    split
    · exact SameConfig.trans (by simp [SameConfig]) (afterRead_sameConfig _ _)
    · simp [SameConfig]

theorem acceptFrame_sameConfig (f : List Byte) (s : State) : SameConfig s (acceptFrame f s) := by
  unfold acceptFrame
  split
  · split
    · exact onAnswer_sameConfig _ _ s
    · exact .refl s
  · exact .refl s

theorem emitRequest_sameConfig (t : Txn) (s : State) : SameConfig s (emitRequest t s) := by
  unfold emitRequest
  split
  · split <;> simp [SameConfig]
  · simp [SameConfig]

theorem engineTop_sameConfig (s : State) : SameConfig s (engineTop s) := by
  unfold engineTop
  split
  · split <;> simp [SameConfig]
  · exact .refl s

theorem enginePollWait_sameConfig (s : State) : SameConfig s (enginePollWait s) := by
  unfold enginePollWait; split <;> simp [SameConfig]

theorem startRead_sameConfig (k : Nat) (s : State) : SameConfig s (startRead k s) := by
  unfold startRead; split <;> exact .refl s

theorem waitTimeout_sameConfig (s : State) : SameConfig s (waitTimeout s) := by
  unfold waitTimeout
  split
  · exact .refl s
  · split
    · exact cancel_sameConfig s
    · exact onAnswer_sameConfig _ _ s

theorem pollRunning_sameConfig (s : State) : SameConfig s (pollRunning s) := by
  unfold pollRunning
  split
  · split
    · exact cancel_sameConfig s
    · exact .refl s
  · exact enginePollWait_sameConfig s
  · exact .refl s

theorem graceExpired_sameConfig (s : State) : SameConfig s (graceExpired s) := by
  unfold graceExpired; split <;> exact .refl s

/-! ### Instructions -/

/-- The outcome of an instruction in `s` has the configuration of `s`, if it is a state. -/
def OutcomeKeepsConfig (s : State) (o : Host.Outcome State Fault Refusal) : Prop := ∀ t, o = .next t → SameConfig s t

theorem outcomeKeepsConfig_next {s t : State} (h : SameConfig s t) : OutcomeKeepsConfig s (.next t) := by
  rintro _ ⟨⟩; exact h

theorem withLock_keepsConfig (i : Instr) (body : State → State) (s : State)
    (h : SameConfig (acquire .host s) (body (acquire .host s))) : OutcomeKeepsConfig s (withLock i body s) := by
  unfold withLock
  split <;> apply outcomeKeepsConfig_next
  · exact h
  · exact .refl s

theorem startBody_sameConfig (s : State) : SameConfig s (startBody s) := by
  unfold startBody
  split
  · dsimp only; split <;> simp [SameConfig]
  · exact .refl s

theorem enableBody_sameConfig (b : Byte) (s : State) : SameConfig s (enableBody b s) := by
  unfold enableBody
  split
  · split
    · simp [SameConfig, Function.comp_def]
    · split
      · simp [SameConfig, forChans_keeps State.par, forChans_ident]
      · exact .refl s
  · exact .refl s

theorem callerExit_sameConfig (s : State) : SameConfig s (callerExit s) := by simp [SameConfig, callerExit]

theorem execStop_keepsConfig (s : State) : OutcomeKeepsConfig s (execStop s) := by
  unfold execStop
  split
  · split
    · split <;> apply outcomeKeepsConfig_next
      · exact callerExit_sameConfig _
      · exact .refl s
    · split <;> exact outcomeKeepsConfig_next (.refl s)
  · exact outcomeKeepsConfig_next (.refl s)

theorem execEnable_keepsConfig (b : Byte) (s : State) : OutcomeKeepsConfig s (execEnable b s) := by
  unfold execEnable
  split
  · exact withLock_keepsConfig _ _ s (enableBody_sameConfig b _)
  · exact outcomeKeepsConfig_next (.refl s)

theorem execStepCycle_keepsConfig (s : State) : OutcomeKeepsConfig s (execStepCycle s) := by
  unfold execStepCycle
  split
  · split <;> apply outcomeKeepsConfig_next
    · simp [SameConfig]
    · exact .refl s
  · exact outcomeKeepsConfig_next (.refl s)

theorem execSetGains_keepsConfig (ch : Byte) (kp ki kd : Pattern) (s : State) :
    OutcomeKeepsConfig s (execSetGains ch kp ki kd s) := by
  unfold execSetGains
  split
  · exact withLock_keepsConfig _ _ s ⟨rfl, map_ident_modify _ _ _ fun _ _ => rfl⟩
  · exact outcomeKeepsConfig_next (.refl s)

theorem execSetSetpoint_keepsConfig (ch : Byte) (x : Pattern) (s : State) :
    OutcomeKeepsConfig s (execSetSetpoint ch x s) := by
  unfold execSetSetpoint
  split
  · exact withLock_keepsConfig _ _ s ⟨rfl, map_ident_modify _ _ _ fun _ _ => rfl⟩
  · exact outcomeKeepsConfig_next (.refl s)

theorem execDiscover_keepsConfig (s : State) : OutcomeKeepsConfig s (execDiscover s) := by
  have h : SameConfig s (discoverAddress s).2 := by simp [SameConfig]
  unfold execDiscover
  split <;> apply outcomeKeepsConfig_next
  · split <;> simp_all [SameConfig]
  · exact .refl s

theorem execAssign_keepsConfig (w : Half) (s : State) : OutcomeKeepsConfig s (execAssign w s) := by
  have h : SameConfig s (assignAddress w s).2 := by simp [SameConfig]
  unfold execAssign
  split <;> apply outcomeKeepsConfig_next
  · split <;> simp_all [SameConfig]
  · exact .refl s

theorem execReadTemp_keepsConfig (b : Byte) (s : State) : OutcomeKeepsConfig s (execReadTemp b s) := by
  have h : SameConfig s (readTemperature b s).2 := by simp [SameConfig]
  unfold execReadTemp
  split
  · split <;> apply outcomeKeepsConfig_next
    · split <;> simp_all [SameConfig]
    · exact .refl s
  · exact outcomeKeepsConfig_next (.refl s)

/-- No instruction changes the configuration. -/
theorem exec_keepsConfig (i : Instr) (s : State) : OutcomeKeepsConfig s (exec i s) := by
  cases i with
  | start => exact withLock_keepsConfig _ _ s (startBody_sameConfig _)
  | stop => exact execStop_keepsConfig s
  | enable b => exact execEnable_keepsConfig b s
  | stepCycle => exact execStepCycle_keepsConfig s
  | setGains ch kp ki kd => exact execSetGains_keepsConfig ch kp ki kd s
  | setSetpoint ch x => exact execSetSetpoint_keepsConfig ch x s
  | status => exact withLock_keepsConfig _ _ s (.refl s)
  | discover => exact execDiscover_keepsConfig s
  | assign w => exact execAssign_keepsConfig w s
  | readTemp b => exact execReadTemp_keepsConfig b s
  | crcInit => exact outcomeKeepsConfig_next (.refl s)
  | crcFeed b => exact outcomeKeepsConfig_next (.refl s)
  | crcRead => exact outcomeKeepsConfig_next (.refl s)
  | mbReq3 a r => exact outcomeKeepsConfig_next (emitRequest_sameConfig _ s)
  | mbReq6 a w => exact outcomeKeepsConfig_next (emitRequest_sameConfig _ s)
  | mbResp3 a fn n data crc => exact outcomeKeepsConfig_next (acceptFrame_sameConfig _ s)
  | mbResp6 a fn reg data crc => exact outcomeKeepsConfig_next (acceptFrame_sameConfig _ s)

/-! ### The move that a step makes -/

/-- The state a move goes on from. -/
def Move.state : Move → State
  | .run _ s => s
  | .resume _ s => s
  | .goOn s => s

theorem fetchMessage_sameConfig (m : List Byte) (s : State) : SameConfig s (fetchMessage m s).state := by
  unfold fetchMessage
  split
  · exact .refl s
  · unfold refuseMessage; split <;> exact .refl s

theorem fetchFrame_sameConfig (t : Txn) (s : State) : SameConfig s (fetchFrame t s).state := by
  unfold fetchFrame
  rcases takeRx_spec t.len s with ⟨_, h⟩ | ⟨_, h⟩ <;> rw [h] <;> dsimp only
  · split
    · exact .refl s
    · exact acceptFrame_sameConfig _ _
  · exact .refl s

theorem fetchBus_sameConfig (bs : List Byte) (s : State) : SameConfig s (fetchBus bs s).state := by
  unfold fetchBus
  dsimp only
  split
  · exact .refl s
  · exact fetchFrame_sameConfig _ _

theorem fetchInput_sameConfig (s : State) : SameConfig s (fetchInput s).state := by
  unfold fetchInput
  split
  · exact .refl s
  · exact fetchMessage_sameConfig _ _
  · exact fetchBus_sameConfig _ _
  · exact waitTimeout_sameConfig _
  · split
    · exact engineTop_sameConfig _
    · exact .refl s
  · exact pollRunning_sameConfig _
  · exact graceExpired_sameConfig _

theorem fetchRequest_sameConfig (t : Txn) (s : State) : SameConfig s (fetchRequest t s).state := by
  unfold fetchRequest
  split
  · exact cancel_sameConfig (transmit t s)
  · split <;> exact .refl s

theorem fetchEngine_sameConfig (s : State) : SameConfig s (fetchEngine s).state := by
  unfold fetchEngine
  split
  · split
    · exact fetchInput_sameConfig s
    · exact fetchRequest_sameConfig _ s
  · exact startRead_sameConfig _ s
  · simp [SameConfig, Move.state]
  · exact fetchInput_sameConfig s

theorem nextMove_sameConfig (s : State) : SameConfig s (nextMove s).state := by
  unfold nextMove
  split
  · split
    · exact .refl s
    · exact fetchEngine_sameConfig s
  · exact fetchEngine_sameConfig s

theorem runMove_keepsConfig (m : Move) : OutcomeKeepsConfig m.state (runMove m) := by
  cases m with
  | run i s => exact exec_keepsConfig i s
  | resume w s =>
    cases w with
    | cmd i => exact exec_keepsConfig i s
    | callerExit => exact outcomeKeepsConfig_next (callerExit_sameConfig s)
  | goOn s => exact outcomeKeepsConfig_next (.refl s)

/-- Settles O47: the choice of the move keeps the configuration, and so does running it. -/
theorem configurationConstant : Obligations.ConfigurationConstant := fun s t h =>
  (nextMove_sameConfig s).trans (runMove_keepsConfig (nextMove s) t h)

end Sys2Proof.Machine

namespace Sys2Proof.Machine

/-! ### R12: rounding to binary32

The exact magnitude is `x * 2 ^ q`, where `q` is the exponent of the last bit that binary32 keeps of it; rounding replaces `x` by the
nearest natural number `n`. `RoundsAt` says so of a rational `x`, whatever has computed `n`, so that it serves a quotient as well, of
which `fRound` sees only the leading bits and a sticky bit. -/

/-- `q` is the exponent of the last bit binary32 has for the magnitude `x * 2 ^ q`, and `n` is `x` to the nearest, ties to even. -/
structure RoundsAt (x : ℚ) (q : ℤ) (n : ℕ) : Prop where
  least : -149 ≤ q
  lt : x < 2 ^ 24
  lead : q = -149 ∨ 2 ^ 23 ≤ x
  near : |x - n| ≤ 1 / 2
  even : |x - n| = 1 / 2 → Even n

namespace RoundsAt

variable {x : ℚ} {q : ℤ} {n : ℕ}

theorem le (h : RoundsAt x q n) : n ≤ 2 ^ 24 := by
  have hx := h.lt
  obtain ⟨hlo, hhi⟩ := abs_le.mp h.near
  have : (n : ℚ) < (2 ^ 24 + 1 : ℕ) := by push_cast; linarith
  exact Nat.lt_succ_iff.mp (by exact_mod_cast this)

theorem lead_le (h : RoundsAt x q n) (hx : 2 ^ 23 ≤ x) : 2 ^ 23 ≤ n := by
  obtain ⟨hlo, hhi⟩ := abs_le.mp h.near
  have : ((2 ^ 23 : ℕ) : ℚ) < n + 1 := by push_cast; linarith
  exact Nat.lt_succ_iff.mp (by exact_mod_cast this)

/-- Just below the greatest exponent's end, rounding reaches `2 ^ 24` exactly from the tie on, the tie being with an odd number. -/
theorem eq_top_iff (h : RoundsAt x q n) : n = 2 ^ 24 ↔ 2 ^ 24 - 1 / 2 ≤ x := by
  obtain ⟨hlo, hhi⟩ := abs_le.mp h.near
  constructor
  · rintro rfl
    push_cast at hlo; linarith
  · intro hx
    by_contra hne
    have hle : n ≤ 2 ^ 24 - 1 := by have := h.le; omega
    have hle' : (n : ℚ) ≤ 2 ^ 24 - 1 := by exact_mod_cast (show (n : ℤ) ≤ 2 ^ 24 - 1 by omega)
    have htie : x - n = 1 / 2 := by linarith
    have hn : n = 2 ^ 24 - 1 := by
      have : (n : ℚ) = (2 ^ 24 - 1 : ℕ) := by push_cast; linarith
      exact_mod_cast this
    have := h.even (by rw [htie]; norm_num)
    rw [hn] at this
    exact absurd this (by decide)

/-- Overflow is decided by the rounded magnitude. -/
theorem overflow_iff (h : RoundsAt x q n) :
    ((2 : ℚ) ^ 25 - 1) * 2 ^ 103 ≤ x * 2 ^ q ↔ (2 : ℚ) ^ 128 ≤ n * 2 ^ q := by
  rcases lt_trichotomy q 104 with hq | rfl | hq
  · -- below the greatest exponent neither side overflows
    have hu : (2 : ℚ) ^ q ≤ 2 ^ 103 := by
      simpa using zpow_le_zpow_right₀ (one_le_two (α := ℚ)) (show q ≤ (103 : ℕ) by omega)
    have hpos : (0 : ℚ) < 2 ^ q := by positivity
    have hn : (n : ℚ) ≤ 2 ^ 24 := by exact_mod_cast h.le
    have h1 : x * 2 ^ q < (2 ^ 25 - 1) * 2 ^ 103 := by
      calc x * 2 ^ q < 2 ^ 24 * 2 ^ q := by have := h.lt; gcongr
        _ ≤ 2 ^ 24 * 2 ^ 103 := by gcongr
        _ < _ := by norm_num
    have h2 : (n : ℚ) * 2 ^ q < 2 ^ 128 := by
      calc (n : ℚ) * 2 ^ q ≤ 2 ^ 24 * 2 ^ 103 := by gcongr
        _ < _ := by norm_num
    exact iff_of_false h1.not_ge h2.not_ge
  · have hu : (2 : ℚ) ^ (104 : ℤ) = 2 ^ 104 := by norm_cast
    have hn : (2 : ℚ) ^ 24 ≤ n ↔ n = 2 ^ 24 :=
      ⟨fun hn => le_antisymm h.le (by exact_mod_cast hn), fun hn => by rw [hn]; norm_num⟩
    rw [hu, show ((2 : ℚ) ^ 25 - 1) * 2 ^ 103 = (2 ^ 24 - 1 / 2) * 2 ^ 104 by norm_num,
      show (2 : ℚ) ^ 128 = 2 ^ 24 * 2 ^ 104 by norm_num, mul_le_mul_iff_left₀ (by norm_num),
      mul_le_mul_iff_left₀ (by norm_num), hn, h.eq_top_iff]
  · -- above it both do
    have hu : (2 : ℚ) ^ 105 ≤ 2 ^ q := by
      simpa using zpow_le_zpow_right₀ (one_le_two (α := ℚ)) (show ((105 : ℕ) : ℤ) ≤ q by omega)
    have hx : 2 ^ 23 ≤ x := h.lead.resolve_left (by omega)
    have hn : (2 : ℚ) ^ 23 ≤ n := by exact_mod_cast h.lead_le hx
    have h1 : (2 : ℚ) ^ 23 * 2 ^ 105 ≤ x * 2 ^ q := by gcongr
    have h2 : (2 : ℚ) ^ 23 * 2 ^ 105 ≤ n * 2 ^ q := by gcongr
    exact iff_of_true (by linarith) (by linarith)

/-- No other integer is nearer than `n`, and another one is as near only at a tie. -/
theorem near_int (h : RoundsAt x q n) (j : ℕ) : n = j ∨ |x - n| < |x - j| ∨ |x - n| = 1 / 2 ∧ |x - n| ≤ |x - j| := by
  by_cases hj : n = j
  · exact .inl hj
  right
  have hgap : (1 : ℚ) ≤ |(j : ℚ) - n| := by
    have : (1 : ℤ) ≤ |(j : ℤ) - n| := Int.one_le_abs (by omega)
    exact_mod_cast this
  have htri : |(j : ℚ) - n| ≤ |x - j| + |x - n| := by
    calc |(j : ℚ) - n| = |(x - n) - (x - j)| := by congr 1; ring
      _ ≤ |x - n| + |x - j| := abs_sub _ _
      _ = _ := add_comm _ _
  rcases h.near.lt_or_eq with hlt | heq
  · exact .inl (by linarith)
  · exact .inr ⟨heq, by linarith⟩

/-- A value of the format is, in units of `2 ^ q`, an integer, or below the least magnitude that has `q` as its last bit's exponent. -/
theorem format_value (h : RoundsAt x q n) (k : ℕ) (p : ℤ) (hk : k < 2 ^ 24) (hp : -149 ≤ p) :
    ∃ y : ℚ, (k : ℚ) * 2 ^ p = y * 2 ^ q ∧ ((∃ j : ℕ, y = j) ∨ y < 2 ^ 23 ∧ 2 ^ 23 ≤ x) := by
  refine ⟨k * 2 ^ (p - q), by rw [mul_assoc, ← zpow_add₀ two_ne_zero, sub_add_cancel], ?_⟩
  rcases le_or_gt q p with hqp | hqp
  · refine .inl ⟨k * 2 ^ (p - q).toNat, ?_⟩
    push_cast
    rw [← zpow_natCast, Int.toNat_of_nonneg (by omega)]
  · refine .inr ⟨?_, h.lead.resolve_left (by omega)⟩
    have hhalf : (2 : ℚ) ^ (p - q) ≤ 2 ^ (-1 : ℤ) := zpow_le_zpow_right₀ one_le_two (by omega)
    have hk' : (k : ℚ) < 2 ^ 24 := by exact_mod_cast hk
    calc (k : ℚ) * 2 ^ (p - q) ≤ k * 2 ^ (-1 : ℤ) := by gcongr
      _ < 2 ^ 24 * 2 ^ (-1 : ℤ) := by gcongr
      _ = _ := by norm_num

/-- In units of `2 ^ q`, no value of the format is nearer to `x` than `n`, and if another one is as near, `n` is even. -/
theorem nearest (h : RoundsAt x q n) {y : ℚ} (hy : (∃ j : ℕ, y = j) ∨ y < 2 ^ 23 ∧ 2 ^ 23 ≤ x) :
    |x - n| ≤ |x - y| ∧ (|x - n| = |x - y| → (n : ℚ) ≠ y → Even n) := by
  rcases hy with ⟨j, rfl⟩ | ⟨hy, hx⟩
  · rcases h.near_int j with rfl | hlt | ⟨htie, hle⟩
    · exact ⟨le_rfl, fun _ hne => absurd rfl hne⟩
    · exact ⟨hlt.le, fun heq _ => absurd heq hlt.ne⟩
    · exact ⟨hle, fun _ _ => h.even htie⟩
  · -- `2 ^ 23` lies between `y` and `x`, and `n` is no farther from `x` than it
    have hfar : |x - (2 ^ 23 : ℕ)| < |x - y| := by
      push_cast
      rw [abs_of_nonneg (by linarith), abs_of_nonneg (by linarith)]
      linarith
    have hle : |x - n| ≤ |x - (2 ^ 23 : ℕ)| := by
      rcases h.near_int (2 ^ 23) with rfl | hlt | ⟨_, hle⟩
      · exact le_rfl
      · exact hlt.le
      · exact hle
    exact ⟨(hle.trans_lt hfar).le, fun heq _ => absurd heq (hle.trans_lt hfar).ne⟩

/-- An even `n` gives a significand whose last bit is even, also where rounding has carried to `2 ^ 24`. -/
theorem even_significand (h : RoundsAt x q n) (hn : Even n) :
    ∃ (s : ℕ) (b : ℤ), Even s ∧ s < 2 ^ 24 ∧ -149 ≤ b ∧ (2 ^ 23 ≤ s ∨ b = -149) ∧ (n : ℚ) * 2 ^ q = (s : ℚ) * 2 ^ b := by
  rcases h.le.lt_or_eq with hlt | rfl
  · exact ⟨n, q, hn, hlt, h.least, h.lead.symm.imp_left h.lead_le, rfl⟩
  · refine ⟨2 ^ 23, q + 1, by decide, by norm_num, by have := h.least; omega, .inl le_rfl, ?_⟩
    rw [zpow_add_one₀ two_ne_zero]; push_cast; ring

/-- A result that holds the rounded magnitude, or is an infinity from `2 ^ 128` on, is correctly rounded. -/
theorem correctlyRounded {neg : Bool} {r : F} (h : RoundsAt x q n) (hinf : (2 : ℚ) ^ 128 ≤ n * 2 ^ q → r = .inf neg)
    (hfin : (n : ℚ) * 2 ^ q < 2 ^ 128 →
      ∃ (m : ℕ) (e : ℤ), r = .fin neg m e ∧ m < 2 ^ 24 ∧ -149 ≤ e ∧ (m : ℚ) * 2 ^ e = n * 2 ^ q) :
    correctlyRounded neg (x * 2 ^ q) r := by
  refine ⟨⟨fun hr => ?_, fun hv => hinf (h.overflow_iff.mp hv)⟩, fun hv => ?_⟩
  · by_contra hv
    obtain ⟨m, e, hr', -⟩ := hfin (not_le.mp (h.overflow_iff.not.mp hv))
    exact F.noConfusion (hr.symm.trans hr')
  · obtain ⟨m, e, hr, hm, he, hval⟩ := hfin (not_le.mp (h.overflow_iff.not.mp hv.not_ge))
    refine ⟨m, e, hr, hm, he, fun k p hk hp => ?_⟩
    obtain ⟨y, hky, hy⟩ := h.format_value k p hk hp
    obtain ⟨hle, htie⟩ := h.nearest hy
    have hu : (0 : ℚ) < 2 ^ q := by positivity
    rw [hval, hky, ← sub_mul, ← sub_mul, abs_mul, abs_mul, abs_of_pos hu]
    exact ⟨by gcongr, fun heq hne =>
      h.even_significand (htie (mul_right_cancel₀ hu.ne' heq) fun h' => hne (by rw [h']))⟩

end RoundsAt

/-! ### The one form of a finite value -/

theorem stripTwos_spec (fuel m : ℕ) (e : ℤ) (h0 : m ≠ 0) (hm : m < 2 ^ (fuel + 1)) :
    Odd (stripTwos fuel m e).1 ∧ (stripTwos fuel m e).1 ≤ m ∧ e ≤ (stripTwos fuel m e).2 ∧
      ((stripTwos fuel m e).1 : ℚ) * 2 ^ (stripTwos fuel m e).2 = m * 2 ^ e := by
  induction fuel generalizing m e with
  | zero =>
    obtain rfl : m = 1 := by omega
    exact ⟨odd_one, le_rfl, le_rfl, rfl⟩
  | succ fuel ih =>
    unfold stripTwos
    split
    · obtain ⟨hodd, hle, he, hval⟩ := ih (m / 2) (e + 1) (by omega) (by omega)
      refine ⟨hodd, by omega, by omega, ?_⟩
      have hm2 : (m : ℚ) = (m / 2 : ℕ) * 2 := by exact_mod_cast (show m = m / 2 * 2 by omega)
      rw [hval, hm2, zpow_add_one₀ two_ne_zero]; ring
    · exact ⟨Nat.odd_iff.mpr (by omega), le_rfl, le_rfl, rfl⟩

/-- The one form of a value is that value with an odd mantissa. -/
theorem fNorm_spec (neg : Bool) {m : ℕ} (e : ℤ) (h0 : m ≠ 0) :
    ∃ (m₁ : ℕ) (e₁ : ℤ), fNorm neg m e = .fin neg m₁ e₁ ∧ Odd m₁ ∧ m₁ ≤ m ∧ e ≤ e₁ ∧ (m₁ : ℚ) * 2 ^ e₁ = m * 2 ^ e :=
  ⟨_, _, if_neg h0, stripTwos_spec _ m e h0 Nat.lt_log2_self⟩

/-- The leading bit of a magnitude. -/
theorem two_zpow_log2_le {m : ℕ} (h0 : m ≠ 0) (e : ℤ) : (2 : ℚ) ^ (e + (m.log2 : ℕ)) ≤ m * 2 ^ e := by
  have h : ((2 : ℚ) ^ m.log2) ≤ m := by exact_mod_cast Nat.log2_self_le h0
  rw [zpow_add₀ two_ne_zero, zpow_natCast, mul_comm]
  gcongr

theorem lt_two_zpow_log2 (m : ℕ) (e : ℤ) : (m : ℚ) * 2 ^ e < 2 ^ (e + (m.log2 : ℕ) + 1) := by
  have h : (m : ℚ) < 2 ^ (m.log2 + 1) := by exact_mod_cast Nat.lt_log2_self
  rw [add_assoc, zpow_add₀ two_ne_zero, mul_comm ((2 : ℚ) ^ e)]
  gcongr
  exact_mod_cast h

/-- The test for overflow looks at the leading bit only. -/
theorem overflow_iff_log2 {m : ℕ} (h0 : m ≠ 0) (e : ℤ) : 127 < e + (m.log2 : ℕ) ↔ (2 : ℚ) ^ 128 ≤ m * 2 ^ e := by
  have hp : (2 : ℚ) ^ 128 = 2 ^ (128 : ℤ) := by norm_cast
  constructor
  · intro h
    rw [hp]
    exact (zpow_le_zpow_right₀ one_le_two (by omega)).trans (two_zpow_log2_le h0 e)
  · intro h
    rw [hp] at h
    have := (zpow_lt_zpow_iff_right₀ one_lt_two).mp (h.trans_lt (lt_two_zpow_log2 m e))
    omega

/-- The last step of `fRound`: the rounded magnitude `m * 2 ^ e` as a value of `F`. -/
theorem finish_correctlyRounded {x : ℚ} {q : ℤ} {n : ℕ} (neg : Bool) (h : RoundsAt x q n) {m : ℕ} {e : ℤ}
    (hm : m ≤ 2 ^ 24) (he : -149 ≤ e) (hval : (m : ℚ) * 2 ^ e = n * 2 ^ q) :
    correctlyRounded neg (x * 2 ^ q)
      (if m = 0 then .fin neg 0 0 else if 127 < e + (m.log2 : ℕ) then .inf neg else fNorm neg m e) := by
  by_cases h0 : m = 0
  · subst h0
    rw [Nat.cast_zero, zero_mul] at hval
    exact h.correctlyRounded (fun hinf => by norm_num [← hval] at hinf) fun _ =>
      ⟨0, 0, if_pos rfl, by norm_num, by norm_num, by simp [← hval]⟩
  · rw [if_neg h0]
    refine h.correctlyRounded (fun hinf => ?_) fun hfin => ?_
    · exact if_pos ((overflow_iff_log2 h0 e).mpr (hval ▸ hinf))
    · obtain ⟨m₁, e₁, hnorm, hodd, hle, he₁, hval₁⟩ := fNorm_spec neg e h0
      have hne : m₁ ≠ 2 ^ 24 := by rintro rfl; exact absurd hodd (by decide)
      exact ⟨m₁, e₁, (if_neg ((overflow_iff_log2 h0 e).not.mpr (hval ▸ hfin.not_ge))).trans hnorm,
        by omega, by omega, hval₁.trans hval⟩

/-! ### Rounding to an integer, and `fRound` -/

/-- The natural number `m` stands for `y`: it is `y`, or it has more bits than rounding keeps and its last bit is sticky (R12's division). -/
def StandsFor (m : ℕ) (y : ℚ) : Prop := y = m ∨ (Odd m ∧ 2 ^ 25 ≤ m ∧ (m : ℚ) - 1 < y ∧ y < m + 1)

/-- A magnitude has the leading bit of the number that stands for it. -/
theorem StandsFor.log2_bounds {m : ℕ} {y : ℚ} (h : StandsFor m y) (h0 : m ≠ 0) :
    (2 : ℚ) ^ m.log2 ≤ y ∧ y < 2 ^ (m.log2 + 1) := by
  have hlo := Nat.log2_self_le h0
  have hhi := @Nat.lt_log2_self m
  rcases h with rfl | ⟨hodd, hbig, hly, hyu⟩
  · exact ⟨by exact_mod_cast hlo, by exact_mod_cast hhi⟩
  · have hL : 1 ≤ m.log2 := (Nat.le_log2 h0).mpr (by omega)
    have heven : Even (2 ^ m.log2) := (Nat.even_pow.mpr ⟨even_two, by omega⟩)
    have hne : 2 ^ m.log2 ≠ m := by rintro heq; rw [heq] at heven; exact Nat.not_even_iff_odd.mpr hodd heven
    have hlo' : (2 : ℚ) ^ m.log2 + 1 ≤ m := by exact_mod_cast (show 2 ^ m.log2 + 1 ≤ m by omega)
    have hhi' : (m : ℚ) + 1 ≤ 2 ^ (m.log2 + 1) := by exact_mod_cast hhi
    exact ⟨by linarith, by linarith⟩

/-- What `halfEven` answers, by the part it drops: above, at, or below half of the last bit kept. -/
theorem halfEven_eq (m t : ℕ) : halfEven m (t + 1) =
    if 2 ^ t < m % 2 ^ (t + 1) ∨ m % 2 ^ (t + 1) = 2 ^ t ∧ m / 2 ^ (t + 1) % 2 = 1 then m / 2 ^ (t + 1) + 1
    else m / 2 ^ (t + 1) := rfl

/-- The fraction dropped from the magnitude `y` compares with a half as the part `R` dropped from the number `m` that stands for it
compares with `D`: a sticky `m` is odd, so that it is neither the multiple of `2 * D` below nor, with `D` even, the tie. -/
theorem StandsFor.dropped {m D Q R : ℕ} {y : ℚ} (h : StandsFor m y) (hm : m = 2 * D * Q + R) (hR : R < 2 * D)
    (hD : y = m ∨ Even D) :
    0 ≤ y / (2 * D) - Q ∧ y / (2 * D) - Q < 1 ∧ (R < D → y / (2 * D) - Q < 1 / 2) ∧
      (R = D → y / (2 * D) - Q = 1 / 2) ∧ (D < R → 1 / 2 < y / (2 * D) - Q) := by
  have hpos : (0 : ℚ) < D := by exact_mod_cast (show 0 < D by omega)
  obtain ⟨w, rfl⟩ : ∃ w : ℚ, y = 2 * D * Q + w := ⟨y - 2 * D * Q, by ring⟩
  have hfrac : (2 * D * Q + w) / (2 * D) - Q = w / (2 * D) := by field_simp; ring
  rw [hfrac, div_lt_one (by positivity), div_lt_div_iff₀ (by positivity) two_pos, div_lt_div_iff₀ two_pos (by positivity),
    div_eq_div_iff (by positivity) two_ne_zero, le_div_iff₀ (by positivity), zero_mul, one_mul]
  have hmQ : (m : ℚ) = 2 * D * Q + R := by exact_mod_cast hm
  have hRD : (R : ℚ) + 1 ≤ 2 * D := by exact_mod_cast hR
  rcases h with hy | ⟨hodd, -, hlo, hhi⟩
  · -- the number is the magnitude
    obtain rfl : w = R := by linarith
    refine ⟨by positivity, by linarith, fun h => ?_, fun h => ?_, fun h => ?_⟩
    · have : (R : ℚ) < D := by exact_mod_cast h
      linarith
    · rw [h]; ring
    · have : (D : ℚ) < R := by exact_mod_cast h
      linarith
  · -- the magnitude lies between the number's neighbours
    have hoddR : Odd R := by
      rw [hm, mul_assoc, Nat.odd_add'] at hodd
      exact hodd.mpr (even_two_mul _)
    have hR1 : (1 : ℚ) ≤ R := by exact_mod_cast hoddR.pos
    refine ⟨by linarith, by linarith, fun h => ?_, fun h => ?_, fun h => ?_⟩
    · have : (R : ℚ) + 1 ≤ D := by exact_mod_cast h
      linarith
    · rcases hD with hy | heven
      · have : w = R := by linarith
        rw [this, h]; ring
      · exact absurd (h ▸ hoddR) (Nat.not_odd_iff_even.mpr heven)
    · have : (D : ℚ) + 1 ≤ R := by exact_mod_cast h
      linarith

/-- `halfEven` rounds to the nearest, ties to even, also when the last bit is sticky and two bits or more are dropped. -/
theorem halfEven_spec {m sh : ℕ} {y : ℚ} (h : StandsFor m y) (hsh : y = m ∨ 2 ≤ sh) :
    |y / 2 ^ sh - halfEven m sh| ≤ 1 / 2 ∧ (|y / 2 ^ sh - halfEven m sh| = 1 / 2 → Even (halfEven m sh)) := by
  rcases sh with _ | t
  · obtain rfl := hsh.resolve_right (by omega)
    simp [halfEven]
  have hpow : 2 ^ (t + 1) = 2 * 2 ^ t := by ring
  have hm : m = 2 * 2 ^ t * (m / 2 ^ (t + 1)) + m % 2 ^ (t + 1) := by rw [← hpow]; exact (Nat.div_add_mod m _).symm
  have hR : m % 2 ^ (t + 1) < 2 * 2 ^ t := by rw [← hpow]; exact Nat.mod_lt _ (by positivity)
  have hD : y = m ∨ Even (2 ^ t) := hsh.imp_right fun ht => Nat.even_pow.mpr ⟨even_two, by omega⟩
  obtain ⟨h0, h1, hlt, heq, hgt⟩ := h.dropped hm hR hD
  rw [halfEven_eq, show (2 : ℚ) ^ (t + 1) = 2 * (2 ^ t : ℕ) by push_cast; ring]
  generalize y / (2 * (2 ^ t : ℕ)) = z at *
  rcases lt_trichotomy (m % 2 ^ (t + 1)) (2 ^ t) with hR | hR | hR
  · have hz := hlt hR
    rw [if_neg (by omega), abs_of_nonneg h0]
    exact ⟨hz.le, fun he => absurd he hz.ne⟩
  · have hz := heq hR
    by_cases hQ : m / 2 ^ (t + 1) % 2 = 1
    · rw [if_pos (.inr ⟨hR, hQ⟩), abs_le]
      push_cast
      exact ⟨⟨by linarith, by linarith⟩, fun _ => Nat.even_add_one.mpr (Nat.not_even_iff.mpr hQ)⟩
    · rw [if_neg (by omega), hz, abs_of_pos one_half_pos]
      exact ⟨le_rfl, fun _ => Nat.even_iff.mpr (by omega)⟩
  · have hz := hgt hR
    rw [if_pos (.inl hR)]
    push_cast
    have habs : |z - ((m / 2 ^ (t + 1) : ℕ) + 1)| < 1 / 2 := abs_lt.mpr ⟨by linarith, by linarith⟩
    exact ⟨habs.le, fun he => absurd he habs.ne⟩

/-- Where `fRound` puts the last bit it keeps, and the mantissa and exponent it goes on with. -/
theorem fRound_eq {m : ℕ} (neg : Bool) (e : ℤ) (h0 : m ≠ 0) (q : ℤ) (hq : q = max (e + (m.log2 + 1 : ℕ) - 24) (-149)) :
    fRound Fmt.binary32 neg m e =
      let m' := if q ≤ e then m else halfEven m (q - e).toNat
      let e' := if q ≤ e then e else q
      if m' = 0 then .fin neg 0 0 else if 127 < e' + (m'.log2 : ℕ) then .inf neg else fNorm neg m' e' := by
  subst hq; exact if_neg h0

theorem fRound_zero (f : Fmt) (neg : Bool) (e : ℤ) : fRound f neg 0 e = .fin neg 0 0 := rfl

theorem fin_zero_correctlyRounded (neg : Bool) : correctlyRounded neg 0 (.fin neg 0 0) := by
  have h : RoundsAt 0 (-149) 0 := ⟨le_rfl, by norm_num, .inl rfl, by norm_num, fun _ => Even.zero⟩
  have hc := finish_correctlyRounded neg h (m := 0) (e := 0) (by norm_num) (by norm_num) (by simp)
  rwa [zero_mul] at hc

/-- The magnitude in units of the last bit that `fRound` keeps. -/
theorem StandsFor.scaled_bounds {m : ℕ} {y : ℚ} (h : StandsFor m y) (h0 : m ≠ 0) {e q : ℤ}
    (hq : q = max (e + (m.log2 + 1 : ℕ) - 24) (-149)) :
    y * 2 ^ (e - q) < 2 ^ 24 ∧ (q = -149 ∨ 2 ^ 23 ≤ y * 2 ^ (e - q)) := by
  obtain ⟨hlo, hhi⟩ := h.log2_bounds h0
  have hpos : (0 : ℚ) < 2 ^ (e - q) := by positivity
  have hscale (k : ℕ) : (2 : ℚ) ^ k * 2 ^ (e - q) = 2 ^ (k + (e - q)) := by
    rw [zpow_add₀ two_ne_zero, zpow_natCast]
  constructor
  · calc y * 2 ^ (e - q) < 2 ^ (m.log2 + 1) * 2 ^ (e - q) := by gcongr
      _ = 2 ^ ((m.log2 + 1 : ℕ) + (e - q)) := hscale _
      _ ≤ 2 ^ (24 : ℤ) := zpow_le_zpow_right₀ one_le_two (by omega)
      _ = 2 ^ 24 := by norm_cast
  · refine or_iff_not_imp_left.mpr fun hne => ?_
    calc (2 : ℚ) ^ 23 = 2 ^ (23 : ℤ) := by norm_cast
      _ = 2 ^ ((m.log2 : ℕ) + (e - q)) := by congr 1; omega
      _ = 2 ^ m.log2 * 2 ^ (e - q) := (hscale _).symm
      _ ≤ y * 2 ^ (e - q) := by gcongr

/-- R12: `fRound` is `fl` of whatever exact magnitude its mantissa stands for. -/
theorem fRound_correctlyRounded (neg : Bool) {m : ℕ} {y : ℚ} (e : ℤ) (h : StandsFor m y) :
    correctlyRounded neg (y * 2 ^ e) (fRound Fmt.binary32 neg m e) := by
  by_cases h0 : m = 0
  · subst h0
    obtain rfl : y = 0 := h.resolve_right fun hs => absurd hs.1 (by decide)
    rw [zero_mul, fRound_zero]
    exact fin_zero_correctlyRounded neg
  obtain ⟨q, hq⟩ : ∃ q, q = max (e + (m.log2 + 1 : ℕ) - 24) (-149) := ⟨_, rfl⟩
  obtain ⟨hlt, hlead⟩ := h.scaled_bounds h0 hq
  have hv : y * 2 ^ e = y * 2 ^ (e - q) * 2 ^ q := by rw [mul_assoc, ← zpow_add₀ two_ne_zero, sub_add_cancel]
  rw [fRound_eq neg e h0 q hq, hv]
  rcases le_or_gt q e with hqe | hqe
  · -- every bit is kept, so that the mantissa is the magnitude
    simp only [if_pos hqe]
    have hy : y = m := by
      refine h.resolve_right fun hs => ?_
      have : 25 ≤ m.log2 := (Nat.le_log2 h0).mpr hs.2.1
      omega
    have hn : y * 2 ^ (e - q) = (m * 2 ^ (e - q).toNat : ℕ) := by
      rw [hy]; push_cast; rw [← zpow_natCast, Int.toNat_of_nonneg (by omega)]
    have hr : RoundsAt (y * 2 ^ (e - q)) q (m * 2 ^ (e - q).toNat) :=
      ⟨by omega, hlt, hlead, by simp [hn], fun ht => by norm_num [hn] at ht⟩
    have hm : m ≤ 2 ^ 24 := (Nat.lt_log2_self.trans_le (Nat.pow_le_pow_right two_pos (by omega))).le
    exact finish_correctlyRounded neg hr hm (by omega) (by rw [← hn, ← hv, hy])
  · -- the bits below `2 ^ q` are rounded away
    simp only [if_neg hqe.not_ge]
    have hn : y * 2 ^ (e - q) = y / 2 ^ (q - e).toNat := by
      rw [← zpow_natCast, Int.toNat_of_nonneg (by omega), ← neg_sub q e, zpow_neg, div_eq_mul_inv]
    have hsh : y = m ∨ 2 ≤ (q - e).toNat := h.imp_right fun hs => by
      have : 25 ≤ m.log2 := (Nat.le_log2 h0).mpr hs.2.1
      omega
    obtain ⟨hnear, heven⟩ := halfEven_spec h hsh
    have hr : RoundsAt (y * 2 ^ (e - q)) q (halfEven m (q - e).toNat) :=
      ⟨by omega, hlt, hlead, by rwa [hn], by rwa [hn]⟩
    exact finish_correctlyRounded neg hr hr.le hr.least rfl

/-! ### The operators on finite operands -/

theorem fVal_fin (neg : Bool) (m : ℕ) (e : ℤ) : fVal (.fin neg m e) = (if neg then -1 else 1) * (m : ℚ) * 2 ^ e := rfl

@[simp] theorem abs_fVal_fin (neg : Bool) (m : ℕ) (e : ℤ) : |fVal (.fin neg m e)| = (m : ℚ) * 2 ^ e := by
  rw [fVal_fin, abs_mul, abs_mul, Nat.abs_cast, abs_of_pos (by positivity : (0 : ℚ) < 2 ^ e)]
  cases neg <;> simp

/-- The scaled integer of a finite value, in its units. -/
theorem scaled_spec {e₀ e : ℤ} (neg : Bool) (m : ℕ) (h : e₀ ≤ e) :
    (scaled e₀ neg m e : ℚ) * 2 ^ e₀ = fVal (.fin neg m e) := by
  have hpow : (2 : ℚ) ^ (e - e₀).toNat * 2 ^ e₀ = 2 ^ e := by
    rw [← zpow_natCast, Int.toNat_of_nonneg (by omega), ← zpow_add₀ two_ne_zero, sub_add_cancel]
  cases neg <;> simp [scaled, fVal_fin, mul_assoc, hpow]

theorem fVal_fNeg (a : F) : fVal (fNeg a) = -fVal a := by
  cases a with
  | nan => simp [fNeg, fVal]
  | inf n => simp [fNeg, fVal]
  | fin n m e => cases n <;> simp [fNeg, fVal_fin]

theorem fVal_fAbs_fin (n : Bool) (m : ℕ) (e : ℤ) : fVal (fAbs (.fin n m e)) = |fVal (.fin n m e)| := by
  rw [abs_fVal_fin]; simp [fAbs, fVal_fin]

theorem fLe_fin_iff (n n' : Bool) (m m' : ℕ) (e e' : ℤ) :
    fLe (.fin n m e) (.fin n' m' e') = true ↔ fVal (.fin n m e) ≤ fVal (.fin n' m' e') := by
  rw [← scaled_spec n m (min_le_left e e'), ← scaled_spec n' m' (min_le_right e e'),
    mul_le_mul_iff_left₀ (by positivity), Int.cast_le]
  exact decide_eq_true_iff

theorem fLt_fin_iff (n n' : Bool) (m m' : ℕ) (e e' : ℤ) :
    fLt (.fin n m e) (.fin n' m' e') = true ↔ fVal (.fin n m e) < fVal (.fin n' m' e') := by
  rw [← not_le, ← fLe_fin_iff]; simp [fLt, fIsNan]

theorem fAdd_correctSum (n n' : Bool) (m m' : ℕ) (e e' : ℤ) :
    correctSum (n && n') (fVal (.fin n m e) + fVal (.fin n' m' e')) (fAdd Fmt.binary32 (.fin n m e) (.fin n' m' e')) := by
  unfold fAdd
  dsimp only
  rw [← scaled_spec n m (min_le_left e e'), ← scaled_spec n' m' (min_le_right e e'), ← add_mul, ← Int.cast_add]
  generalize scaled (min e e') n m e + scaled (min e e') n' m' e' = v
  have hu : (0 : ℚ) < 2 ^ min e e' := by positivity
  constructor
  · intro hv
    exact if_pos (by simpa [hu.ne'] using hv)
  · intro hv
    have hv0 : v ≠ 0 := by rintro rfl; simp at hv
    have hneg : ((v : ℚ) * 2 ^ min e e' < 0) ↔ v < 0 := by
      rw [mul_neg_iff, Int.cast_lt_zero]; simp [hu, hu.not_gt]
    rw [if_neg hv0, abs_mul, abs_of_pos hu, ← Int.cast_abs, Int.abs_eq_natAbs, Int.cast_natCast]
    simp only [hneg]
    exact fRound_correctlyRounded _ _ (.inl rfl)

theorem fSub_correctSum (n n' : Bool) (m m' : ℕ) (e e' : ℤ) :
    correctSum (n && !n') (fVal (.fin n m e) - fVal (.fin n' m' e')) (fSub Fmt.binary32 (.fin n m e) (.fin n' m' e')) := by
  rw [sub_eq_add_neg, ← fVal_fNeg]
  exact fAdd_correctSum n (!n') m m' e e'

theorem fMul_correctlyRounded (n n' : Bool) (m m' : ℕ) (e e' : ℤ) :
    correctlyRounded (n != n') |fVal (.fin n m e) * fVal (.fin n' m' e')|
      (fMul Fmt.binary32 (.fin n m e) (.fin n' m' e')) := by
  have hv : |fVal (.fin n m e) * fVal (.fin n' m' e')| = ((m * m' : ℕ) : ℚ) * 2 ^ (e + e') := by
    rw [abs_mul, abs_fVal_fin, abs_fVal_fin, zpow_add₀ two_ne_zero]; push_cast; ring
  rw [hv]
  exact fRound_correctlyRounded _ _ (.inl rfl)

/-- The quotient digits with the sticky bit below them stand for twice the exact quotient. -/
theorem standsFor_quotient {a d : ℕ} (h : a % d ≠ 0 → 2 ^ 24 ≤ a / d) (hd : 0 < d) :
    StandsFor (2 * (a / d) + if a % d = 0 then 0 else 1) (2 * (a / d : ℚ)) := by
  have hd' : (0 : ℚ) < d := by exact_mod_cast hd
  have hdiv : (a : ℚ) = d * (a / d : ℕ) + (a % d : ℕ) := by exact_mod_cast (Nat.div_add_mod a d).symm
  have hq : (a : ℚ) / d = (a / d : ℕ) + (a % d : ℕ) / d := by rw [hdiv]; field_simp
  by_cases hr : a % d = 0
  · left
    rw [if_pos hr, hq, hr]; push_cast; simp
  · right
    have hlo : (0 : ℚ) < (a % d : ℕ) / d := by have := Nat.pos_of_ne_zero hr; positivity
    have hhi : ((a % d : ℕ) : ℚ) / d < 1 := (div_lt_one hd').mpr (by exact_mod_cast Nat.mod_lt a hd)
    rw [if_neg hr, hq]
    push_cast
    exact ⟨odd_two_mul_add_one _, by have := h hr; omega, by linarith, by linarith⟩

/-- The quotient keeps more bits than binary32, however large the divisor. -/
theorem two_pow_le_quotient {m m' : ℕ} (h0 : m ≠ 0) (h0' : m' ≠ 0) : 2 ^ 24 ≤ m * 2 ^ (27 + m'.log2) / m' := by
  rw [Nat.le_div_iff_mul_le (by omega)]
  calc 2 ^ 24 * m' ≤ 2 ^ 24 * 2 ^ (m'.log2 + 1) := Nat.mul_le_mul_left _ Nat.lt_log2_self.le
    _ = 2 ^ (25 + m'.log2) := by ring
    _ ≤ 2 ^ (27 + m'.log2) := Nat.pow_le_pow_right two_pos (by omega)
    _ ≤ m * 2 ^ (27 + m'.log2) := Nat.le_mul_of_pos_left _ (by omega)

theorem fDiv_fin_eq (n n' : Bool) (m : ℕ) {m' : ℕ} (e e' : ℤ) (h0 : m' ≠ 0) :
    fDiv Fmt.binary32 (.fin n m e) (.fin n' m' e') =
      let a := m * 2 ^ (27 + m'.log2)
      fRound Fmt.binary32 (n != n') (2 * (a / m') + if a % m' = 0 then 0 else 1) (e - e' - (27 + m'.log2 : ℕ) - 1) :=
  if_neg h0

theorem fDiv_correctlyRounded (n n' : Bool) (m : ℕ) {m' : ℕ} (e e' : ℤ) (h0 : m' ≠ 0) :
    correctlyRounded (n != n') |fVal (.fin n m e) / fVal (.fin n' m' e')|
      (fDiv Fmt.binary32 (.fin n m e) (.fin n' m' e')) := by
  have hv : |fVal (.fin n m e) / fVal (.fin n' m' e')| =
      2 * ((m * 2 ^ (27 + m'.log2) : ℕ) / m' : ℚ) * 2 ^ (e - e' - (27 + m'.log2 : ℕ) - 1) := by
    have h0q : (m' : ℚ) ≠ 0 := by exact_mod_cast h0
    rw [abs_div, abs_fVal_fin, abs_fVal_fin, zpow_sub_one₀ two_ne_zero, zpow_sub₀ two_ne_zero, zpow_sub₀ two_ne_zero,
      zpow_natCast]
    push_cast
    field_simp
  have hs : StandsFor _ _ := standsFor_quotient (a := m * 2 ^ (27 + m'.log2)) (d := m')
    (fun hr => two_pow_le_quotient (by rintro rfl; simp at hr) h0) (by omega)
  rw [fDiv_fin_eq n n' m e e' h0, hv]
  exact fRound_correctlyRounded _ _ hs

theorem fDiv_zero (n n' : Bool) (m : ℕ) (e e' : ℤ) :
    fDiv Fmt.binary32 (.fin n m e) (.fin n' 0 e') = if m = 0 then .nan else .inf (n != n') := by
  simp [fDiv]

/-! ### Infinities and NaNs -/

theorem infiniteOperands_holds : infiniteOperands := by
  intro n n' m e
  cases n <;> cases n' <;>
    exact ⟨rfl, rfl, rfl, rfl, rfl, rfl, rfl, rfl, rfl, rfl, rfl, rfl, rfl, rfl, rfl, rfl, rfl, rfl, rfl, rfl⟩

theorem nanOperands_holds : nanOperands := by
  refine ⟨rfl, rfl, fun a => ?_⟩
  have hcmp : fLe a .nan = false ∧ fLe .nan a = false := by cases a <;> exact ⟨rfl, rfl⟩
  refine ⟨?_, hcmp.1, hcmp.2, ?_, ?_⟩
  · cases a <;> simp [fAdd, fSub, fMul, fDiv, fNeg]
  · simp [fLt, fIsNan]
  · simp [fLt, fIsNan]

/-- Settles O7: every operator rounds an exact magnitude once, and `fRound` rounds it correctly. -/
theorem roundingIsNearest : Obligations.RoundingIsNearest := by
  refine ⟨fun neg m e => fRound_correctlyRounded neg e (.inl rfl), fun n n' m m' e e' => ?_,
    infiniteOperands_holds, nanOperands_holds⟩
  exact ⟨fAdd_correctSum n n' m m' e e', fSub_correctSum n n' m m' e e', fMul_correctlyRounded n n' m m' e e',
    fDiv_correctlyRounded n n' m e e', fun h => h ▸ fDiv_zero n n' m e e', fLe_fin_iff n n' m m' e e',
    fLt_fin_iff n n' m m' e e', fVal_fAbs_fin n m e, fVal_fNeg _⟩

end Sys2Proof.Machine

namespace Sys2Proof.Machine

/-! ### What one step can do

Each instruction and each move of the engine is taken apart once, into its guards and the state it leaves; the invariants below are proved
by cases on these. -/

/-- What an instruction can do in `s`: a constructor for each way through its meaning. -/
inductive ExecCase (s : State) : Instr → State → Prop
  | refused {i : Instr} (e : ResultCode) : ExecCase s i (raise e s)
  | blocked {i : Instr} : takesLock i = true → s.lock ≠ .free → ExecCase s i { s with waiting := s.waiting ++ [.cmd i] }
  | start : s.lock = .free → ExecCase s .start (release (startBody (acquire .host s)))
  | enable (b : Byte) : s.lock = .free → ExecCase s (.enable b) (release (enableBody b (acquire .host s)))
  | setGains (ch : Byte) (kp ki kd : Pattern) : s.lock = .free → legalF s.par kp = true → legalF s.par ki = true →
      legalF s.par kd = true → ExecCase s (.setGains ch kp ki kd) (release (gainsBody ch kp ki kd (acquire .host s)))
  | setSetpoint (ch : Byte) (x : Pattern) : s.lock = .free → legalF s.par x = true →
      ExecCase s (.setSetpoint ch x) (release (setpointBody ch x (acquire .host s)))
  | status (ds : List Byte) : s.lock = .free → ExecCase s .status (release (respondOk ds (acquire .host s)))
  | stopCaller : loopRuns s = true → s.running = true → s.mode = .caller → s.lock = .free →
      ExecCase s .stop (callerExit { s with running := false })
  | stopCallerBlocked : loopRuns s = true → s.mode = .caller → s.lock ≠ .free →
      ExecCase s .stop { s with running := false, waiting := s.waiting ++ [.callerExit] }
  | stopAnswered : loopRuns s = true → s.running = true → s.mode ≠ .caller → s.seq = .stopped →
      ExecCase s .stop (respondOk [] { s with running := false })
  | stopWaits : loopRuns s = true → s.running = true → s.mode ≠ .caller → s.seq ≠ .stopped →
      ExecCase s .stop { s with running := false, stopWait := true }
  | stepCycle : s.mode = .caller → loopRuns s = true → s.running = true → s.lock = .free →
      ExecCase s .stepCycle (respondOk [] (callerCycle s))
  | stepCycleBlocked : s.mode = .caller → s.lock ≠ .free →
      ExecCase s .stepCycle { s with waiting := s.waiting ++ [.cmd .stepCycle] }
  | discover (r : List (List Byte)) : busAllowed s = true → ExecCase s .discover { (discoverAddress s).2 with replies := r }
  | assign (w : Half) (r : List (List Byte)) : busAllowed s = true →
      ExecCase s (.assign w) { (assignAddress w s).2 with replies := r }
  | readTemp (b : Byte) (r : List (List Byte)) : busAllowed s = true →
      ExecCase s (.readTemp b) { (readTemperature b s).2 with replies := r }
  | crcInit : ExecCase s .crcInit (respondOk [] { s with crcHost := Config.crcSeed })
  | crcFeed (b : Byte) : ExecCase s (.crcFeed b) (respondOk [] { s with crcHost := crcByte s.crcHost b })
  | crcRead (ds : List Byte) : ExecCase s .crcRead (respondOk ds s)
  | mbReq3 (a : Byte) (r : Half) : ExecCase s (.mbReq3 a r) (emitRequest (request3Txn s.par a r) s)
  | mbReq6 (a : Byte) (w : Half) : ExecCase s (.mbReq6 a w) (emitRequest (newTxn (req6 a w) 8 s.par.attWrite .echo) s)
  | mbResp3 (a fn n : Byte) (data crc : Half) :
      ExecCase s (.mbResp3 a fn n data crc) (acceptFrame (resp3Bytes a fn n data crc) s)
  | mbResp6 (a fn : Byte) (reg data crc : Half) :
      ExecCase s (.mbResp6 a fn reg data crc) (acceptFrame (resp6Bytes a fn reg data crc) s)

/-- A command that takes the lock runs its body, or waits (R59, R63). -/
theorem withLock_cases {i : Instr} {body : State → State} {s t : State} (hi : takesLock i = true)
    (hbody : s.lock = .free → ExecCase s i (release (body (acquire .host s)))) (h : withLock i body s = .next t) :
    ExecCase s i t := by
  by_cases hl : s.lock = .free
  · rw [withLock_free i body s hl] at h
    cases h
    exact hbody hl
  · rw [withLock_held i body s hl] at h
    cases h
    exact .blocked hi hl

theorem execStop_cases {s t : State} (h : execStop s = .next t) : ExecCase s .stop t := by
  unfold execStop at h
  split at h
  · next hrun =>
    split at h
    · next hm =>
      split at h <;> cases h
      · exact .stopCaller hrun.1 hrun.2 hm ‹_›
      · exact .stopCallerBlocked hrun.1 hm ‹_›
    · next hm =>
      split at h <;> cases h
      · exact .stopAnswered hrun.1 hrun.2 hm ‹_›
      · exact .stopWaits hrun.1 hrun.2 hm ‹_›
  · cases h; exact .refused _

theorem execStepCycle_cases {s t : State} (h : execStepCycle s = .next t) : ExecCase s .stepCycle t := by
  unfold execStepCycle at h
  split at h
  · next hm =>
    split at h <;> cases h
    · exact .stepCycle hm.1 hm.2.1 hm.2.2 ‹_›
    · exact .stepCycleBlocked hm.1 ‹_›
  · cases h; exact .refused _

/-- The answer of a bus command is all that tells its successes from its failures. -/
theorem execDiscover_cases {s t : State} (h : execDiscover s = .next t) : ExecCase s .discover t := by
  unfold execDiscover at h
  split at h
  · next hb =>
    have hd (r : List (List Byte)) := ExecCase.discover r hb
    split at h <;> next heq => cases h; rw [heq] at hd; exact hd _
  · cases h; exact .refused _

theorem execAssign_cases {w : Half} {s t : State} (h : execAssign w s = .next t) : ExecCase s (.assign w) t := by
  unfold execAssign at h
  split at h
  · next hb =>
    have hd (r : List (List Byte)) := ExecCase.assign w r hb
    split at h <;> next heq => cases h; rw [heq] at hd; exact hd _
  · cases h; exact .refused _

theorem execReadTemp_cases {b : Byte} {s t : State} (h : execReadTemp b s = .next t) : ExecCase s (.readTemp b) t := by
  unfold execReadTemp at h
  split at h
  · split at h
    · next hb =>
      have hd (r : List (List Byte)) := ExecCase.readTemp b r hb
      split at h <;> next heq => cases h; rw [heq] at hd; exact hd _
    · cases h; exact .refused _
  · cases h; exact .refused _

/-- Every way an instruction can go is one of `ExecCase`. -/
theorem exec_cases {i : Instr} {s t : State} (h : exec i s = .next t) : ExecCase s i t := by
  cases i with
  | start => exact withLock_cases rfl .start h
  | stop => exact execStop_cases h
  | enable b =>
    by_cases hb : legalFlag b = true
    · exact withLock_cases rfl (.enable b) ((if_pos hb).symm.trans h)
    · cases (if_neg hb).symm.trans h
      exact .refused _
  | stepCycle => exact execStepCycle_cases h
  | setGains ch kp ki kd =>
    by_cases hleg : legalChan s.chanCount ch ∧ legalF s.par kp ∧ legalF s.par ki ∧ legalF s.par kd
    · have ⟨_, hp, hi, hd⟩ := hleg
      exact withLock_cases rfl (fun hl => .setGains ch kp ki kd hl hp hi hd) ((if_pos hleg).symm.trans h)
    · cases (if_neg hleg).symm.trans h
      exact .refused _
  | setSetpoint ch x =>
    by_cases hleg : legalChan s.chanCount ch ∧ legalF s.par x
    · exact withLock_cases rfl (fun hl => .setSetpoint ch x hl hleg.2) ((if_pos hleg).symm.trans h)
    · cases (if_neg hleg).symm.trans h
      exact .refused _
  | status => exact withLock_cases rfl (.status _) h
  | discover => exact execDiscover_cases h
  | assign w => exact execAssign_cases h
  | readTemp b => exact execReadTemp_cases h
  | crcInit => cases h; exact .crcInit
  | crcFeed b => cases h; exact .crcFeed b
  | crcRead => cases h; exact .crcRead _
  | mbReq3 a r => cases h; exact .mbReq3 a r
  | mbReq6 a w => cases h; exact .mbReq6 a w
  | mbResp3 a fn n data crc => cases h; exact .mbResp3 a fn n data crc
  | mbResp6 a fn reg data crc => cases h; exact .mbResp6 a fn reg data crc

/-- What a step takes in before it acts: from the inbox, from the work that waits for the lock, from the serial line. -/
def Intake (s s' : State) : Prop :=
  ∃ inb wt buf, s' = { s with inbox := inb, waiting := wt, rxbuf := buf } ∧ ∀ w ∈ wt, w ∈ s.waiting

theorem Intake.refl (s : State) : Intake s s := ⟨_, _, _, rfl, fun _ h => h⟩

theorem Intake.inbox (s : State) (inb : List Input) : Intake s { s with inbox := inb } := ⟨_, _, _, rfl, fun _ h => h⟩

theorem Intake.rxbuf {s s' : State} (h : Intake s s') (buf : List Byte) : Intake s { s' with rxbuf := buf } := by
  obtain ⟨inb, wt, _, rfl, hwt⟩ := h
  exact ⟨inb, wt, buf, rfl, hwt⟩

theorem Intake.par {s s' : State} (h : Intake s s') : s'.par = s.par := by obtain ⟨_, _, _, rfl, _⟩ := h; rfl
theorem Intake.loop {s s' : State} (h : Intake s s') : s'.loop = s.loop := by obtain ⟨_, _, _, rfl, _⟩ := h; rfl
theorem Intake.mode {s s' : State} (h : Intake s s') : s'.mode = s.mode := by obtain ⟨_, _, _, rfl, _⟩ := h; rfl
theorem Intake.crcHost {s s' : State} (h : Intake s s') : s'.crcHost = s.crcHost := by obtain ⟨_, _, _, rfl, _⟩ := h; rfl
theorem Intake.txn {s s' : State} (h : Intake s s') : s'.txn = s.txn := by obtain ⟨_, _, _, rfl, _⟩ := h; rfl
theorem Intake.ch {s s' : State} (h : Intake s s') : s'.ch = s.ch := by obtain ⟨_, _, _, rfl, _⟩ := h; rfl
theorem Intake.env {s s' : State} (h : Intake s s') : s'.env = s.env := by obtain ⟨_, _, _, rfl, _⟩ := h; rfl

/-- Where a step can have an instruction from: a message, a command that waited and now gets the lock, the request that is due, the bytes
of a response. -/
inductive Issued (s : State) : Instr → Prop
  | message {m : List Byte} {rest : List Input} {i : Instr} : s.inbox = .host m :: rest → decode .host m = .ok i → Issued s i
  | waiting {i : Instr} : .cmd i ∈ s.waiting → Issued s i
  | request {t : Txn} {i : Instr} : s.txn = some t → decode .tx t.req = .ok i → Issued s i
  | response {n : Nat} {f : List Byte} {i : Instr} : decode (rxPort n) f = .ok i → Issued s i

/-- What a step can do in `s`: run an instruction, or one of the moves that are none. -/
inductive StepCase (s : State) : State → Prop
  | exec {i : Instr} {s' t : State} : Intake s s' → Issued s i → ExecCase s' i t → StepCase s t
  | callerExit {rest : List Pending} : s.waiting = .callerExit :: rest → StepCase s (callerExit { s with waiting := rest })
  | idle {s' : State} : Intake s s' → StepCase s s'
  | refused {s' : State} (e : ResultCode) : Intake s s' → StepCase s (raise e s')
  | accept {s' : State} (f : List Byte) : Intake s s' → StepCase s (acceptFrame f s')
  | timeout {s' : State} {t : Txn} : Intake s s' → s'.txn = some t → StepCase s (onAnswer t none s')
  | cancel {s' : State} : Intake s s' → cancelled s' = true → StepCase s (cancel s')
  | cancelRequest {t : Txn} : s.txn = some t → cancelled s = true → StepCase s (Machine.cancel (transmit t s))
  | transmit {t : Txn} : s.txn = some t → StepCase s (transmit t s)
  | enterCycle {s' : State} : Intake s s' → s'.seq = .wait → s'.lock = .free → s'.running = true →
      StepCase s (enterChan 0 (acquire .engine s'))
  | engineExit {s' : State} : Intake s s' → s'.seq = .wait → s'.lock = .free → s'.running = false →
      StepCase s (answerStop (engineExit (acquire .engine s')))
  | graceOver {s' : State} : Intake s s' → s'.stopWait = true →
      StepCase s (raise .stopGraceExpired { s' with stopWait := false })
  | startRead (k : Nat) : s.seq = .cycle k → StepCase s (startRead k s)
  | finishCycle : s.txn = none → s.seq = .finish → StepCase s (finishCycle .wait s)

/-- Running the move `m` is one of `StepCase`. -/
def MoveCase (s : State) (m : Move) : Prop := ∀ t, runMove m = .next t → StepCase s t

theorem moveCase_goOn {s t : State} (h : StepCase s t) : MoveCase s (.goOn t) := by
  rintro _ ⟨⟩; exact h

theorem moveCase_run {s s' : State} {i : Instr} (hin : Intake s s') (hi : Issued s i) : MoveCase s (.run i s') :=
  fun _ h => .exec hin hi (exec_cases h)

theorem fetchMessage_cases {s s' : State} {m : List Byte} {rest : List Input} (hin : Intake s s')
    (hm : s.inbox = .host m :: rest) : MoveCase s (fetchMessage m s') := by
  unfold fetchMessage
  split
  · exact moveCase_run hin (.message hm ‹_›)
  · apply moveCase_goOn
    unfold refuseMessage
    split <;> exact .refused _ hin

theorem fetchBus_cases {s s' : State} (bs : List Byte) (hin : Intake s s') : MoveCase s (fetchBus bs s') := by
  unfold fetchBus
  dsimp only
  split
  · exact moveCase_goOn (.idle (hin.rxbuf _))
  · next t _ =>
    unfold fetchFrame
    rcases takeRx_spec t.len { s' with rxbuf := s'.rxbuf ++ bs } with ⟨-, h⟩ | ⟨-, h⟩ <;> rw [h] <;> dsimp only
    · split
      · exact moveCase_run (hin.rxbuf _) (.response ‹_›)
      · exact moveCase_goOn (.accept _ (hin.rxbuf _))
    · exact moveCase_goOn (.idle (hin.rxbuf _))

theorem waitTimeout_cases {s s' : State} (hin : Intake s s') : StepCase s (waitTimeout s') := by
  unfold waitTimeout
  split
  · exact .idle hin
  · split
    · exact .cancel hin ‹_›
    · exact .timeout hin ‹_›

theorem engineTop_cases {s s' : State} (hin : Intake s s') (hseq : s'.seq = .wait) : StepCase s (engineTop s') := by
  unfold engineTop
  split
  · split
    · exact .enterCycle hin hseq ‹_› ‹_›
    · exact .engineExit hin hseq ‹_› (Bool.eq_false_iff.mpr ‹_›)
  · exact .idle hin

theorem pollRunning_cases {s s' : State} (hin : Intake s s') : StepCase s (pollRunning s') := by
  unfold pollRunning
  split
  · split
    · exact .cancel hin ‹_›
    · exact .idle hin
  · unfold enginePollWait
    split
    · next h => exact .engineExit hin ‹_› h.1 h.2
    · exact .idle hin
  · exact .idle hin

theorem graceExpired_cases {s s' : State} (hin : Intake s s') : StepCase s (graceExpired s') := by
  unfold graceExpired
  split
  · exact .graceOver hin ‹_›
  · exact .idle hin

theorem fetchInput_cases (s : State) : MoveCase s (fetchInput s) := by
  unfold fetchInput
  split
  · exact moveCase_goOn (.idle (.refl s))
  · exact fetchMessage_cases (.inbox s _) ‹_›
  · exact fetchBus_cases _ (.inbox s _)
  · exact moveCase_goOn (waitTimeout_cases (.inbox s _))
  · apply moveCase_goOn
    split
    · exact engineTop_cases (.inbox s _) ‹_›
    · exact .idle (.inbox s _)
  · exact moveCase_goOn (pollRunning_cases (.inbox s _))
  · exact moveCase_goOn (graceExpired_cases (.inbox s _))

theorem fetchRequest_cases {s : State} {t : Txn} (ht : s.txn = some t) : MoveCase s (fetchRequest t s) := by
  unfold fetchRequest
  split
  · exact moveCase_goOn (.cancelRequest ht ‹_›)
  · split
    · exact moveCase_run (.refl s) (.request ht ‹_›)
    · exact moveCase_goOn (.transmit ht)

theorem fetchEngine_cases (s : State) : MoveCase s (fetchEngine s) := by
  unfold fetchEngine
  split
  · split
    · exact fetchInput_cases s
    · exact fetchRequest_cases ‹_›
  · exact moveCase_goOn (.startRead _ ‹_›)
  · exact moveCase_goOn (.finishCycle ‹_› ‹_›)
  · exact fetchInput_cases s

theorem nextMove_cases (s : State) : MoveCase s (nextMove s) := by
  unfold nextMove
  split
  · next w rest hw =>
    split
    · have hin : Intake s { s with waiting := rest } := ⟨_, _, _, rfl, fun _ h => hw ▸ List.mem_cons_of_mem _ h⟩
      cases w with
      | cmd i => exact fun t h => .exec hin (.waiting (hw ▸ List.mem_cons_self)) (exec_cases h)
      | callerExit => rintro _ ⟨⟩; exact .callerExit hw
    · exact fetchEngine_cases s
  · exact fetchEngine_cases s

/-- Every step is one of `StepCase`. -/
theorem step_cases {s t : State} (h : step s = .next t) : StepCase s t := nextMove_cases s t h

end Sys2Proof.Machine

namespace Sys2Proof.Machine

/-! ### R32, R69: nothing reads the event history or the answers

Every operation commutes with putting a list before the event history and one before the answers. -/

/-- `s` with `e` put before its event history and `r` before its answers. -/
def State.prependHistory (e : List Event) (r : List (List Byte)) (s : State) : State :=
  { s with events := e ++ s.events, replies := r ++ s.replies }

section Prepend

variable (e : List Event) (r : List (List Byte)) (s : State)

@[simp] theorem prependHistory_par : (s.prependHistory e r).par = s.par := rfl
@[simp] theorem prependHistory_loop : (s.prependHistory e r).loop = s.loop := rfl
@[simp] theorem prependHistory_running : (s.prependHistory e r).running = s.running := rfl
@[simp] theorem prependHistory_mode : (s.prependHistory e r).mode = s.mode := rfl
@[simp] theorem prependHistory_lock : (s.prependHistory e r).lock = s.lock := rfl
@[simp] theorem prependHistory_seq : (s.prependHistory e r).seq = s.seq := rfl
@[simp] theorem prependHistory_crcHost : (s.prependHistory e r).crcHost = s.crcHost := rfl
@[simp] theorem prependHistory_rxbuf : (s.prependHistory e r).rxbuf = s.rxbuf := rfl
@[simp] theorem prependHistory_txn : (s.prependHistory e r).txn = s.txn := rfl
@[simp] theorem prependHistory_ch : (s.prependHistory e r).ch = s.ch := rfl
@[simp] theorem prependHistory_inbox : (s.prependHistory e r).inbox = s.inbox := rfl
@[simp] theorem prependHistory_waiting : (s.prependHistory e r).waiting = s.waiting := rfl
@[simp] theorem prependHistory_stopWait : (s.prependHistory e r).stopWait = s.stopWait := rfl
@[simp] theorem prependHistory_chanCount : (s.prependHistory e r).chanCount = s.chanCount := rfl
@[simp] theorem prependHistory_loopRuns : loopRuns (s.prependHistory e r) = loopRuns s := rfl
@[simp] theorem prependHistory_busAllowed : busAllowed (s.prependHistory e r) = busAllowed s := rfl
@[simp] theorem prependHistory_cancelled : cancelled (s.prependHistory e r) = cancelled s := rfl
@[simp] theorem prependHistory_statusData : statusData (s.prependHistory e r) = statusData s := rfl

@[simp] theorem addEvent_prependHistory (x : Event) :
    addEvent x (s.prependHistory e r) = (addEvent x s).prependHistory e r := by
  simp [addEvent, State.prependHistory]

@[simp] theorem logRecord_prependHistory (x : LogRecord) :
    logRecord x (s.prependHistory e r) = (logRecord x s).prependHistory e r := addEvent_prependHistory e r s _

@[simp] theorem respondOk_prependHistory (d : List Byte) :
    respondOk d (s.prependHistory e r) = (respondOk d s).prependHistory e r := by
  simp [respondOk, State.prependHistory]

@[simp] theorem raise_prependHistory (c : ResultCode) :
    raise c (s.prependHistory e r) = (raise c s).prependHistory e r := by
  simp [raise, State.prependHistory]

@[simp] theorem acquire_prependHistory (o : Lock) :
    acquire o (s.prependHistory e r) = (acquire o s).prependHistory e r := rfl
@[simp] theorem release_prependHistory : release (s.prependHistory e r) = (release s).prependHistory e r := rfl
@[simp] theorem modChan_prependHistory (i : Nat) (g : Channel → Channel) :
    modChan i g (s.prependHistory e r) = (modChan i g s).prependHistory e r := rfl
@[simp] theorem rxFlush_prependHistory : rxFlush (s.prependHistory e r) = (rxFlush s).prependHistory e r := rfl
@[simp] theorem closeTxn_prependHistory : closeTxn (s.prependHistory e r) = (closeTxn s).prependHistory e r := rfl
@[simp] theorem enterLoop_prependHistory (l : Loop) :
    enterLoop l (s.prependHistory e r) = (enterLoop l s).prependHistory e r := rfl
@[simp] theorem enterChan_prependHistory (k : Nat) :
    enterChan k (s.prependHistory e r) = (enterChan k s).prependHistory e r := rfl

/-- A loop over the channels commutes if its body does. -/
theorem forChans_prependHistory {body : Nat → State → State}
    (h : ∀ i s, body i (s.prependHistory e r) = (body i s).prependHistory e r) :
    forChans body (s.prependHistory e r) = (forChans body s).prependHistory e r := by
  unfold forChans
  rw [prependHistory_chanCount]
  generalize List.range s.chanCount = l
  induction l generalizing s with
  | nil => rfl
  | cons i l ih => rw [List.foldl_cons, h, ih]; rfl

/-! ### Draws and outputs -/

@[simp] theorem drawAct_prependHistory :
    drawAct (s.prependHistory e r) = ((drawAct s).1, (drawAct s).2.prependHistory e r) := by
  unfold drawAct
  rw [show (s.prependHistory e r).env = s.env from rfl]
  split <;> rfl

@[simp] theorem drawSpawn_prependHistory :
    drawSpawn (s.prependHistory e r) = ((drawSpawn s).1, (drawSpawn s).2.prependHistory e r) := by
  unfold drawSpawn
  rw [show (s.prependHistory e r).env = s.env from rfl]
  split <;> rfl

@[simp] theorem readNow_prependHistory :
    readNow (s.prependHistory e r) = ((readNow s).1, (readNow s).2.prependHistory e r) := by
  unfold readNow
  rw [show (s.prependHistory e r).env = s.env from rfl]
  split <;> rfl

@[simp] theorem drawRx_prependHistory :
    drawRx (s.prependHistory e r) = ((drawRx s).1, (drawRx s).2.prependHistory e r) := by
  unfold drawRx
  rw [show (s.prependHistory e r).env = s.env from rfl]
  split <;> rfl

@[simp] theorem setDuty_prependHistory (i d : Nat) :
    setDuty i d (s.prependHistory e r) = (setDuty i d s).prependHistory e r := by
  unfold setDuty
  rw [addEvent_prependHistory, drawAct_prependHistory]
  dsimp only
  split <;> simp

@[simp] theorem setReady_prependHistory (b : Bool) :
    setReady b (s.prependHistory e r) = (setReady b s).prependHistory e r := by
  unfold setReady
  rw [addEvent_prependHistory, drawAct_prependHistory]
  dsimp only
  split
  · rfl
  · rw [logRecord_prependHistory]; rfl

/-! ### Transactions -/

@[simp] theorem takeRx_prependHistory (n : Nat) :
    takeRx n (s.prependHistory e r) = ((takeRx n s).1, (takeRx n s).2.prependHistory e r) := by
  unfold takeRx
  rw [prependHistory_rxbuf]
  split <;> rfl

@[simp] theorem rxExact_prependHistory (n : Nat) :
    rxExact n (s.prependHistory e r) = ((rxExact n s).1, (rxExact n s).2.prependHistory e r) := by
  unfold rxExact
  rw [drawRx_prependHistory]
  exact takeRx_prependHistory e r { (drawRx s).2 with rxbuf := s.rxbuf ++ (drawRx s).1 } n

@[simp] theorem transmit_prependHistory (t : Txn) :
    transmit t (s.prependHistory e r) = (transmit t s).prependHistory e r := by
  unfold transmit txWrite
  rw [rxFlush_prependHistory, addEvent_prependHistory]
  rfl

@[simp] theorem recover_prependHistory (t : Txn) (c : Cause) :
    recover t c (s.prependHistory e r) = (recover t c s).prependHistory e r := by
  simp [recover, transportReset]

@[simp] theorem attemptOnce_prependHistory (t : Txn) :
    attemptOnce t (s.prependHistory e r) = ((attemptOnce t s).1, (attemptOnce t s).2.prependHistory e r) := by
  simp [attemptOnce]

@[simp] theorem runAttempts_prependHistory (more : Nat) (t : Txn) :
    runAttempts more t (s.prependHistory e r) = ((runAttempts more t s).1, (runAttempts more t s).2.prependHistory e r) := by
  induction more generalizing t s with
  | zero =>
    unfold runAttempts
    rw [attemptOnce_prependHistory]
    rcases attemptOnce t s with ⟨v | c, s'⟩ <;> simp
  | succ more ih =>
    unfold runAttempts
    rw [attemptOnce_prependHistory]
    rcases attemptOnce t s with ⟨v | c, s'⟩ <;> simp [ih]

@[simp] theorem runTxn_prependHistory (q : List Byte) (len lim : Nat) (k : RespKind) :
    runTxn q len lim k (s.prependHistory e r) = ((runTxn q len lim k s).1, (runTxn q len lim k s).2.prependHistory e r) :=
  runAttempts_prependHistory e r s _ _

@[simp] theorem readTemperature_prependHistory (a : Byte) :
    readTemperature a (s.prependHistory e r) = ((readTemperature a s).1, (readTemperature a s).2.prependHistory e r) := by
  simp [readTemperature]

@[simp] theorem discoverAddress_prependHistory :
    discoverAddress (s.prependHistory e r) = ((discoverAddress s).1, (discoverAddress s).2.prependHistory e r) := by
  unfold discoverAddress
  rw [prependHistory_par, runTxn_prependHistory]
  dsimp only
  split <;> rfl

@[simp] theorem assignAddress_prependHistory (w : Half) :
    assignAddress w (s.prependHistory e r) = ((assignAddress w s).1, (assignAddress w s).2.prependHistory e r) := by
  unfold assignAddress
  rw [discoverAddress_prependHistory]
  rcases discoverAddress s with ⟨c | a, s'⟩
  · rfl
  · dsimp only
    rw [prependHistory_par, runTxn_prependHistory]
    dsimp only
    split <;> rfl

/-! ### The control cycle and the engine -/

@[simp] theorem engineExit_prependHistory : engineExit (s.prependHistory e r) = (engineExit s).prependHistory e r := by
  unfold engineExit
  rw [forChans_prependHistory e r s fun i t => by simp [exitChan], setReady_prependHistory]
  rfl

@[simp] theorem answerStop_prependHistory : answerStop (s.prependHistory e r) = (answerStop s).prependHistory e r := by
  unfold answerStop
  rw [prependHistory_stopWait]
  split
  · exact respondOk_prependHistory e r { s with stopWait := false } []
  · rfl

@[simp] theorem actuate_prependHistory (k : Nat) : actuate k (s.prependHistory e r) = (actuate k s).prependHistory e r := by
  unfold actuate
  rw [prependHistory_ch, readNow_prependHistory]
  split <;> simp

@[simp] theorem storeReading_prependHistory (k : Nat) (res : Except ResultCode F) :
    storeReading k res (s.prependHistory e r) = (storeReading k res s).prependHistory e r := by
  cases res <;> simp [storeReading]

@[simp] theorem chanDone_prependHistory (k : Nat) (en : Bool) (res : Except ResultCode F) :
    chanDone k en res (s.prependHistory e r) = (chanDone k en res s).prependHistory e r := by
  cases en <;> simp [chanDone]

@[simp] theorem finishCycle_prependHistory (q : Seq) :
    finishCycle q (s.prependHistory e r) = (finishCycle q s).prependHistory e r := by
  unfold finishCycle
  rw [setReady_prependHistory]
  rfl

theorem with_seq_prependHistory (q : Seq) :
    { s.prependHistory e r with seq := q } = { s with seq := q }.prependHistory e r := rfl

@[simp] theorem callerChan_prependHistory (en : Bool) (k : Nat) :
    callerChan en k (s.prependHistory e r) = (callerChan en k s).prependHistory e r := by
  unfold callerChan
  rw [with_seq_prependHistory, prependHistory_ch]
  split
  · rfl
  · simp

@[simp] theorem callerCycle_prependHistory : callerCycle (s.prependHistory e r) = (callerCycle s).prependHistory e r := by
  unfold callerCycle
  rw [prependHistory_loop, acquire_prependHistory,
    forChans_prependHistory e r _ fun i t => callerChan_prependHistory e r t _ i]
  exact finishCycle_prependHistory e r { forChans (callerChan (s.loop == .runEn)) (acquire .host s) with seq := .finish } _

@[simp] theorem cancel_prependHistory : cancel (s.prependHistory e r) = (cancel s).prependHistory e r := by simp [cancel]

@[simp] theorem engineTop_prependHistory : engineTop (s.prependHistory e r) = (engineTop s).prependHistory e r := by
  unfold engineTop
  rw [prependHistory_lock, prependHistory_running]
  split
  · split <;> simp
  · rfl

@[simp] theorem enginePollWait_prependHistory :
    enginePollWait (s.prependHistory e r) = (enginePollWait s).prependHistory e r := by
  unfold enginePollWait
  rw [prependHistory_lock, prependHistory_running]
  split <;> simp

@[simp] theorem startRead_prependHistory (k : Nat) :
    startRead k (s.prependHistory e r) = (startRead k s).prependHistory e r := by
  unfold startRead
  rw [prependHistory_ch]
  split <;> rfl

@[simp] theorem afterRead_prependHistory (res : Except Cause Half) :
    afterRead res (s.prependHistory e r) = (afterRead res s).prependHistory e r := by
  unfold afterRead
  rw [prependHistory_seq]
  split <;> simp

@[simp] theorem onAnswer_prependHistory (t : Txn) (f : Option (List Byte)) :
    onAnswer t f (s.prependHistory e r) = (onAnswer t f s).prependHistory e r := by
  unfold onAnswer
  split
  · simp
  · dsimp only
    rw [addEvent_prependHistory, recover_prependHistory]
    split
    · simp
    · rfl

@[simp] theorem acceptFrame_prependHistory (f : List Byte) :
    acceptFrame f (s.prependHistory e r) = (acceptFrame f s).prependHistory e r := by
  unfold acceptFrame
  rw [prependHistory_txn]
  split
  · split
    · exact onAnswer_prependHistory e r s _ _
    · rfl
  · rfl

@[simp] theorem emitRequest_prependHistory (t : Txn) :
    emitRequest t (s.prependHistory e r) = (emitRequest t s).prependHistory e r := by
  unfold emitRequest
  rw [prependHistory_txn]
  split
  · split <;> simp
  · simp

/-! ### Instructions -/

theorem withLock_prependHistory (i : Instr) {body : State → State}
    (h : ∀ s, body (s.prependHistory e r) = (body s).prependHistory e r) :
    withLock i body (s.prependHistory e r) = mapNext (State.prependHistory e r) (withLock i body s) := by
  unfold withLock
  rw [prependHistory_lock]
  split
  · rw [acquire_prependHistory, h]; rfl
  · rfl

@[simp] theorem startBody_prependHistory : startBody (s.prependHistory e r) = (startBody s).prependHistory e r := by
  unfold startBody
  have h : drawSpawn { enterLoop .runDis (s.prependHistory e r) with running := true } = _ :=
    drawSpawn_prependHistory e r { enterLoop .runDis s with running := true }
  rw [prependHistory_loop, h]
  split
  · dsimp only
    split <;> exact respondOk_prependHistory e r { (drawSpawn { enterLoop .runDis s with running := true }).2 with
      mode := _, seq := _ } _
  · exact raise_prependHistory e r s _

@[simp] theorem enableBody_prependHistory (b : Byte) :
    enableBody b (s.prependHistory e r) = (enableBody b s).prependHistory e r := by
  unfold enableBody
  rw [prependHistory_loopRuns, prependHistory_running, prependHistory_loop,
    forChans_prependHistory e r s fun i t => by simp [disableChan]]
  split
  · split
    · exact respondOk_prependHistory e r (enterLoop .runEn { s with ch := s.ch.map enableChan }) _
    · split <;> simp
  · exact raise_prependHistory e r s _

theorem callerExit_prependHistory : callerExit (s.prependHistory e r) = (callerExit s).prependHistory e r := by
  simp [callerExit]

theorem execStop_prependHistory :
    execStop (s.prependHistory e r) = mapNext (State.prependHistory e r) (execStop s) := by
  unfold execStop
  rw [prependHistory_loopRuns, prependHistory_running, prependHistory_mode, prependHistory_lock, prependHistory_seq,
    raise_prependHistory]
  split
  · split
    · split
      · exact congrArg Host.Outcome.next (callerExit_prependHistory e r { s with running := false })
      · rfl
    · split
      · exact congrArg Host.Outcome.next (respondOk_prependHistory e r { s with running := false } [])
      · rfl
  · rfl

theorem execStepCycle_prependHistory :
    execStepCycle (s.prependHistory e r) = mapNext (State.prependHistory e r) (execStepCycle s) := by
  unfold execStepCycle
  simp only [prependHistory_mode, prependHistory_loopRuns, prependHistory_running, prependHistory_lock,
    callerCycle_prependHistory, respondOk_prependHistory, raise_prependHistory]
  split
  · split <;> rfl
  · rfl

theorem execDiscover_prependHistory :
    execDiscover (s.prependHistory e r) = mapNext (State.prependHistory e r) (execDiscover s) := by
  unfold execDiscover
  rw [prependHistory_busAllowed, discoverAddress_prependHistory, raise_prependHistory]
  rcases discoverAddress s with ⟨c | a, s'⟩ <;> dsimp only <;> split <;> simp [mapNext]

theorem execAssign_prependHistory (w : Half) :
    execAssign w (s.prependHistory e r) = mapNext (State.prependHistory e r) (execAssign w s) := by
  unfold execAssign
  rw [prependHistory_busAllowed, assignAddress_prependHistory, raise_prependHistory]
  rcases assignAddress w s with ⟨c | a, s'⟩ <;> dsimp only <;> split <;> simp [mapNext]

theorem execReadTemp_prependHistory (b : Byte) :
    execReadTemp b (s.prependHistory e r) = mapNext (State.prependHistory e r) (execReadTemp b s) := by
  unfold execReadTemp
  rw [prependHistory_par, prependHistory_busAllowed, readTemperature_prependHistory, raise_prependHistory,
    raise_prependHistory]
  split
  · rcases readTemperature b s with ⟨c | m, s'⟩ <;> dsimp only <;> split <;> simp [mapNext]
  · rfl

/-- The meaning of every instruction commutes with prepending history. -/
theorem exec_prependHistory (i : Instr) :
    exec i (s.prependHistory e r) = mapNext (State.prependHistory e r) (exec i s) := by
  cases i with
  | start => exact withLock_prependHistory e r s _ (startBody_prependHistory e r)
  | stop => exact execStop_prependHistory e r s
  | enable b =>
    have h := withLock_prependHistory e r s (.enable b) fun t => enableBody_prependHistory e r t b
    simp only [exec, execEnable, raise_prependHistory, h]
    split <;> rfl
  | stepCycle => exact execStepCycle_prependHistory e r s
  | setGains ch kp ki kd =>
    have h := withLock_prependHistory e r s (.setGains ch kp ki kd) (body := gainsBody ch kp ki kd) fun t => by
      simp [gainsBody]
    simp only [exec, execSetGains, prependHistory_chanCount, prependHistory_par, raise_prependHistory, h]
    split <;> rfl
  | setSetpoint ch x =>
    have h := withLock_prependHistory e r s (.setSetpoint ch x) (body := setpointBody ch x) fun t => by
      simp [setpointBody]
    simp only [exec, execSetSetpoint, prependHistory_chanCount, prependHistory_par, raise_prependHistory, h]
    split <;> rfl
  | status => exact withLock_prependHistory e r s _ fun t => by simp
  | discover => exact execDiscover_prependHistory e r s
  | assign w => exact execAssign_prependHistory e r s w
  | readTemp b => exact execReadTemp_prependHistory e r s b
  | crcInit => exact congrArg Host.Outcome.next (respondOk_prependHistory e r { s with crcHost := Config.crcSeed } [])
  | crcFeed b =>
    exact congrArg Host.Outcome.next (respondOk_prependHistory e r { s with crcHost := crcByte s.crcHost b } [])
  | crcRead => exact congrArg Host.Outcome.next (respondOk_prependHistory e r s _)
  | mbReq3 a reg => exact congrArg Host.Outcome.next (emitRequest_prependHistory e r s _)
  | mbReq6 a w => exact congrArg Host.Outcome.next (emitRequest_prependHistory e r s _)
  | mbResp3 a fn n data crc => exact congrArg Host.Outcome.next (acceptFrame_prependHistory e r s _)
  | mbResp6 a fn reg data crc => exact congrArg Host.Outcome.next (acceptFrame_prependHistory e r s _)

/-! ### The move that a step makes -/

/-- A move with the state it goes on from rewritten. -/
def Move.mapState (f : State → State) : Move → Move
  | .run i s => .run i (f s)
  | .resume w s => .resume w (f s)
  | .goOn s => .goOn (f s)

theorem fetchMessage_prependHistory (m : List Byte) :
    fetchMessage m (s.prependHistory e r) = (fetchMessage m s).mapState (State.prependHistory e r) := by
  unfold fetchMessage
  split
  · rfl
  · unfold refuseMessage
    split <;> simp [Move.mapState]

theorem fetchFrame_prependHistory (t : Txn) :
    fetchFrame t (s.prependHistory e r) = (fetchFrame t s).mapState (State.prependHistory e r) := by
  unfold fetchFrame
  rw [takeRx_prependHistory]
  rcases takeRx t.len s with ⟨_ | f, s'⟩
  · rfl
  · dsimp only
    split <;> simp [Move.mapState]

theorem fetchBus_prependHistory (bs : List Byte) :
    fetchBus bs (s.prependHistory e r) = (fetchBus bs s).mapState (State.prependHistory e r) := by
  unfold fetchBus
  dsimp only
  rw [prependHistory_txn]
  split
  · rfl
  · exact fetchFrame_prependHistory e r { s with rxbuf := s.rxbuf ++ bs } _

theorem waitTimeout_prependHistory : waitTimeout (s.prependHistory e r) = (waitTimeout s).prependHistory e r := by
  unfold waitTimeout
  rw [prependHistory_txn, prependHistory_cancelled]
  split
  · rfl
  · split <;> simp

theorem pollRunning_prependHistory : pollRunning (s.prependHistory e r) = (pollRunning s).prependHistory e r := by
  unfold pollRunning
  rw [prependHistory_txn, prependHistory_seq, prependHistory_cancelled]
  split
  · split <;> simp
  · simp
  · rfl

theorem graceExpired_prependHistory : graceExpired (s.prependHistory e r) = (graceExpired s).prependHistory e r := by
  unfold graceExpired
  rw [prependHistory_stopWait]
  split
  · exact raise_prependHistory e r { s with stopWait := false } _
  · rfl

theorem fetchInput_prependHistory :
    fetchInput (s.prependHistory e r) = (fetchInput s).mapState (State.prependHistory e r) := by
  unfold fetchInput
  rw [prependHistory_inbox, prependHistory_seq]
  split
  · rfl
  · next m rest _ => exact fetchMessage_prependHistory e r { s with inbox := rest } m
  · next bs rest _ => exact fetchBus_prependHistory e r { s with inbox := rest } bs
  · next rest _ => exact congrArg Move.goOn (waitTimeout_prependHistory e r { s with inbox := rest })
  · next rest _ =>
    split
    · exact congrArg Move.goOn (engineTop_prependHistory e r { s with inbox := rest })
    · rfl
  · next rest _ => exact congrArg Move.goOn (pollRunning_prependHistory e r { s with inbox := rest })
  · next rest _ => exact congrArg Move.goOn (graceExpired_prependHistory e r { s with inbox := rest })

theorem fetchRequest_prependHistory (t : Txn) :
    fetchRequest t (s.prependHistory e r) = (fetchRequest t s).mapState (State.prependHistory e r) := by
  unfold fetchRequest
  rw [prependHistory_cancelled]
  split
  · simp [Move.mapState]
  · split <;> simp [Move.mapState]

theorem fetchEngine_prependHistory :
    fetchEngine (s.prependHistory e r) = (fetchEngine s).mapState (State.prependHistory e r) := by
  unfold fetchEngine
  rw [prependHistory_txn, prependHistory_seq]
  split
  · split
    · exact fetchInput_prependHistory e r s
    · exact fetchRequest_prependHistory e r s _
  · exact congrArg Move.goOn (startRead_prependHistory e r s _)
  · exact congrArg Move.goOn (finishCycle_prependHistory e r s _)
  · exact fetchInput_prependHistory e r s

theorem nextMove_prependHistory :
    nextMove (s.prependHistory e r) = (nextMove s).mapState (State.prependHistory e r) := by
  unfold nextMove
  rw [prependHistory_waiting, prependHistory_lock]
  split
  · split
    · rfl
    · exact fetchEngine_prependHistory e r s
  · exact fetchEngine_prependHistory e r s

theorem runMove_mapState_prependHistory (m : Move) :
    runMove (m.mapState (State.prependHistory e r)) = mapNext (State.prependHistory e r) (runMove m) := by
  cases m with
  | run i s => exact exec_prependHistory e r s i
  | resume w s =>
    cases w with
    | cmd i => exact exec_prependHistory e r s i
    | callerExit => exact congrArg Host.Outcome.next (callerExit_prependHistory e r s)
  | goOn s => rfl

/-- A step does the same whatever stands before the history and the answers. -/
theorem step_prependHistory : step (s.prependHistory e r) = mapNext (State.prependHistory e r) (step s) := by
  unfold step
  rw [nextMove_prependHistory, runMove_mapState_prependHistory]

end Prepend

/-- Settles O49: the step commutes with prepending to the event history. -/
theorem eventHistoryUnread : Obligations.EventHistoryUnread := fun e s => step_prependHistory e [] s

end Sys2Proof.Machine

namespace Sys2Proof.Machine

/-! ### R137: the time source does not go back -/

@[simp] theorem drawAct_clock (s : State) : (drawAct s).2.env.clock = s.env.clock := by unfold drawAct; split <;> rfl
@[simp] theorem drawSpawn_clock (s : State) : (drawSpawn s).2.env.clock = s.env.clock := by unfold drawSpawn; split <;> rfl
@[simp] theorem drawRx_clock (s : State) : (drawRx s).2.env.clock = s.env.clock := by unfold drawRx; split <;> rfl
@[simp] theorem rxExact_clock (n : Nat) (s : State) : (rxExact n s).2.env.clock = s.env.clock := by simp [rxExact]
@[simp] theorem attemptOnce_clock (t : Txn) (s : State) : (attemptOnce t s).2.env.clock = s.env.clock := by
  simp [attemptOnce]

@[simp] theorem setDuty_clock (i d : Nat) (s : State) : (setDuty i d s).env.clock = s.env.clock := by
  unfold setDuty; dsimp only; split <;> simp

@[simp] theorem setReady_clock (b : Bool) (s : State) : (setReady b s).env.clock = s.env.clock := by
  unfold setReady; dsimp only; split <;> simp

@[simp] theorem runTxn_clock (q : List Byte) (n lim : Nat) (k : RespKind) (s : State) :
    (runTxn q n lim k s).2.env.clock = s.env.clock :=
  runAttempts_keeps (fun s => s.env.clock) (by simp) (by simp) (by simp) _ _ _

@[simp] theorem readTemperature_clock (a : Byte) (s : State) : (readTemperature a s).2.env.clock = s.env.clock := by
  simp [readTemperature]

@[simp] theorem discoverAddress_clock (s : State) : (discoverAddress s).2.env.clock = s.env.clock := by
  unfold discoverAddress; dsimp only; split <;> simp

@[simp] theorem assignAddress_clock (w : Half) (s : State) : (assignAddress w s).2.env.clock = s.env.clock := by
  have h := discoverAddress_clock s
  unfold assignAddress
  split
  · simp_all
  · dsimp only; split <;> simp_all

@[simp] theorem exitChan_clock (i : Nat) (s : State) : (exitChan i s).env.clock = s.env.clock := by simp [exitChan]
@[simp] theorem disableChan_clock (i : Nat) (s : State) : (disableChan i s).env.clock = s.env.clock := by
  simp [disableChan]

@[simp] theorem engineExit_clock (s : State) : (engineExit s).env.clock = s.env.clock := by
  simp [engineExit, forChans_keeps fun s : State => s.env.clock]

@[simp] theorem finishCycle_clock (q : Seq) (s : State) : (finishCycle q s).env.clock = s.env.clock := by
  simp [finishCycle]

@[simp] theorem startBody_clock (s : State) : (startBody s).env.clock = s.env.clock := by
  unfold startBody
  split
  · dsimp only; split <;> simp
  · rfl

@[simp] theorem enableBody_clock (b : Byte) (s : State) : (enableBody b s).env.clock = s.env.clock := by
  unfold enableBody
  split
  · split
    · rfl
    · split
      · simp [forChans_keeps fun s : State => s.env.clock]
      · rfl
  · rfl

@[simp] theorem callerExit_clock (s : State) : (callerExit s).env.clock = s.env.clock := by simp [callerExit]

@[simp] theorem emitRequest_clock (t : Txn) (s : State) : (emitRequest t s).env.clock = s.env.clock := by
  unfold emitRequest
  split
  · split <;> rfl
  · rfl

@[simp] theorem startRead_clock (k : Nat) (s : State) : (startRead k s).env.clock = s.env.clock := by
  unfold startRead; split <;> rfl

/-- The enabled part of a cycle is the one place that asks for the time. -/
theorem actuate_clock_le (k : Nat) (s : State) : s.env.clock ≤ (actuate k s).env.clock := by
  obtain ⟨hnow, hle⟩ := readNow_spec s
  unfold actuate
  split
  · exact le_rfl
  · simp [hnow ▸ hle]

theorem chanDone_clock_le (k : Nat) (en : Bool) (r : Except ResultCode F) (s : State) :
    s.env.clock ≤ (chanDone k en r s).env.clock := by
  cases en
  · simp [chanDone]
  · exact (congrArg Env.clock (storeReading_env k r s)).ge.trans (actuate_clock_le k _)

theorem callerChan_clock_le (en : Bool) (k : Nat) (s : State) : s.env.clock ≤ (callerChan en k s).env.clock := by
  unfold callerChan
  split
  · exact le_rfl
  · next c _ =>
    have h := readTemperature_clock c.addr { s with seq := .cycle k }
    exact h.ge.trans (chanDone_clock_le k en _ _)

/-- What holds before a loop over the channels and is kept by every round holds after it. -/
theorem forChans_induction {P : State → Prop} {body : Nat → State → State} (h : ∀ i s, P s → P (body i s)) {s : State}
    (hs : P s) : P (forChans body s) := by
  unfold forChans
  generalize List.range s.chanCount = l
  induction l generalizing s with
  | nil => exact hs
  | cons i l ih => exact ih (h i s hs)

theorem callerCycle_clock_le (s : State) : s.env.clock ≤ (callerCycle s).env.clock := by
  unfold callerCycle
  rw [finishCycle_clock]
  exact forChans_induction (P := fun t => s.env.clock ≤ t.env.clock)
    (fun i t ht => ht.trans (callerChan_clock_le _ i t)) le_rfl

theorem afterRead_clock_le (res : Except Cause Half) (s : State) : s.env.clock ≤ (afterRead res s).env.clock := by
  unfold afterRead
  split
  · exact chanDone_clock_le _ _ _ s
  · exact le_rfl

theorem onAnswer_clock_le (t : Txn) (r : Option (List Byte)) (s : State) : s.env.clock ≤ (onAnswer t r s).env.clock := by
  unfold onAnswer
  split
  · exact afterRead_clock_le _ (closeTxn (addEvent (answerEvent r) s))
  · next c _ =>
    dsimp only
    split
    · exact afterRead_clock_le _ (closeTxn (recover t c (addEvent (answerEvent r) s)))
    · exact le_rfl

theorem acceptFrame_clock_le (f : List Byte) (s : State) : s.env.clock ≤ (acceptFrame f s).env.clock := by
  unfold acceptFrame
  split
  · split
    · exact onAnswer_clock_le _ _ s
    · exact le_rfl
  · exact le_rfl

theorem execCase_clock_le {s t : State} {i : Instr} (h : ExecCase s i t) : s.env.clock ≤ t.env.clock := by
  cases h with
  | stepCycle => exact callerCycle_clock_le s
  | mbResp3 => exact acceptFrame_clock_le _ s
  | mbResp6 => exact acceptFrame_clock_le _ s
  | _ => simp [gainsBody, setpointBody]

theorem stepCase_clock_le {s t : State} (h : StepCase s t) : s.env.clock ≤ t.env.clock := by
  cases h with
  | exec hin _ h => exact hin.env ▸ execCase_clock_le h
  | accept f hin => exact hin.env ▸ acceptFrame_clock_le f _
  | timeout hin => exact hin.env ▸ onAnswer_clock_le _ none _
  | idle hin | refused e hin | enterCycle hin | graceOver hin => exact (congrArg Env.clock hin.env).ge
  | cancel hin | engineExit hin => simp [cancel, hin.env]
  | callerExit | cancelRequest | transmit | startRead | finishCycle => simp [cancel]

/-! ### R32, R69: the event history and the answers grow -/

theorem mapNext_eq_next {f : State → State} {o : Host.Outcome State Fault Refusal} {t : State}
    (h : mapNext f o = .next t) : ∃ u, t = f u := by
  cases o with
  | next u => cases h; exact ⟨u, rfl⟩
  | fault r => cases h
  | refused r => cases h

/-- As nothing reads the history and the answers, a step does what it does where they are empty, and its own come after them. -/
theorem step_appends {s t : State} (h : step s = .next t) : s.events <+: t.events ∧ s.replies <+: t.replies := by
  have hs : s = State.prependHistory s.events s.replies { s with events := [], replies := [] } := by
    simp [State.prependHistory]
  rw [hs, step_prependHistory] at h
  obtain ⟨u, rfl⟩ := mapNext_eq_next h
  exact ⟨List.prefix_append _ _, List.prefix_append _ _⟩

/-- Settles O48: events and answers grow as nothing reads them, the time by cases on what a step can do. -/
theorem historyOnlyGrows : Obligations.HistoryOnlyGrows := fun _ _ h =>
  ⟨(step_appends h).1, (step_appends h).2, stepCase_clock_le (step_cases h)⟩

end Sys2Proof.Machine

namespace Sys2Proof.Machine

/-! ### What a step does to the loop state and to the channels -/

/-- R122: what a cycle makes of a channel whose read gave the reading `m`, if any. -/
def cycledChan (p : Params) (en : Bool) (m : Option F) (now : Nat) (c : Channel) : Channel :=
  if en then enabledChan p m now c else { c with lastReading := m, dutyOut := 0 }

/-- What can become of a channel in a step that does not change the loop state. -/
inductive Adjusted (p : Params) (en : Bool) (c : Channel) : Channel → Prop
  | same : Adjusted p en c c
  | cycled (res : Except Cause Half) (now : Nat) : Adjusted p en c (cycledChan p en (readResult p res).toOption now c)
  | gains (kp ki kd : Pattern) : legalF p kp = true → legalF p ki = true → legalF p kd = true →
      Adjusted p en c { c with kp := operandF p kp, ki := operandF p ki, kd := operandF p kd }
  | setpoint (x : Pattern) : legalF p x = true →
      Adjusted p en c { c with sp := operandF p x, stageT := targetsOf p (operandF p x), holdSince := none }

/-- What a step can do to the loop state, and to the channels with it. -/
inductive ControlCase (s t : State) : Prop
  | kept : t.loop = s.loop → t.enabled = s.enabled → t.mode = s.mode →
      (t.loop ≠ .runEn → t.readyOut = s.readyOut ∨ t.readyOut = false) →
      List.Forall₂ (Adjusted s.par (s.loop == .runEn)) s.ch t.ch → ControlCase s t
  | started : s.loop = .idle → t.loop = .runDis → t.enabled = false → t.readyOut = s.readyOut → t.ch = s.ch →
      ControlCase s t
  | enabled : s.loop = .runDis → t.loop = .runEn → t.enabled = true → t.mode = s.mode → t.ch = s.ch.map enableChan →
      ControlCase s t
  | disabled : s.loop = .runEn → t.loop = .runDis → t.enabled = false → t.mode = s.mode → t.readyOut = false →
      t.ch = s.ch.map zeroedChan → ControlCase s t
  | exited : loopRuns s = true ∨ s.seq ≠ .stopped ∨ .callerExit ∈ s.waiting → t.loop = .terminated → t.enabled = false →
      t.mode = s.mode → t.readyOut = false → t.ch = s.ch.map zeroedChan → ControlCase s t

/-! ### Lists of channels related entry by entry -/

theorem forall₂_adjusted_refl (p : Params) (en : Bool) (l : List Channel) : List.Forall₂ (Adjusted p en) l l :=
  List.forall₂_same.mpr fun _ _ => .same

/-- Two lists of which one rewrites at most the entry `i` of the other, by a related one. -/
theorem forall₂_modify {p : Params} {en : Bool} {i : Nat} {g : Channel → Channel} (l : List Channel)
    (h : ∀ c, l[i]? = some c → Adjusted p en c (g c)) : List.Forall₂ (Adjusted p en) l (l.modify i g) := by
  refine List.forall₂_iff_get.mpr ⟨(List.length_modify ..).symm, fun k hk hk' => ?_⟩
  simp only [List.get_eq_getElem, List.getElem_modify]
  split
  · next hik =>
    subst hik
    exact h _ (List.getElem?_eq_getElem hk)
  · exact .same

/-- Rewriting an entry depends on the rewriting of that entry only. -/
theorem modify_congr {i : Nat} {f g : Channel → Channel} {l : List Channel} (h : ∀ c, l[i]? = some c → f c = g c) :
    l.modify i f = l.modify i g := by
  apply List.ext_getElem?
  intro k
  rw [List.getElem?_modify, List.getElem?_modify]
  by_cases hik : i = k
  · subst hik
    cases hc : l[i]? with
    | none => rfl
    | some c => simp [h c hc]
  · simp [hik]

/-! ### One channel of a cycle -/

theorem storeReading_ch (k : Nat) (res : Except ResultCode F) (s : State) :
    (storeReading k res s).ch = s.ch.modify k fun c => { c with lastReading := res.toOption } := by
  cases res <;> rfl

theorem actuate_ch (k : Nat) (s : State) : (actuate k s).ch = s.ch.modify k fun c =>
    { (compute s.par c.lastReading (advance s.par c.lastReading (readNow s).1 c)).1 with
      dutyOut := quant (compute s.par c.lastReading (advance s.par c.lastReading (readNow s).1 c)).2 } := by
  unfold actuate
  split
  · next hc => exact (List.modify_eq_self (by simpa using hc)).symm
  · next c hc =>
    rw [setDuty_ch, modChan_ch, readNow_ch, List.modify_modify_eq]
    refine modify_congr fun c' hc' => ?_
    obtain rfl : c = c' := Option.some.inj (hc.symm.trans hc')
    rfl

theorem chanDone_ch (k : Nat) (en : Bool) (res : Except ResultCode F) (s : State) :
    ∃ now, (chanDone k en res s).ch = s.ch.modify k (cycledChan s.par en res.toOption now) := by
  cases en
  · refine ⟨0, ?_⟩
    simp only [chanDone, Bool.false_eq_true, if_false, setDuty_ch, storeReading_ch, List.modify_modify_eq]
    rfl
  · refine ⟨(readNow (storeReading k res s)).1, ?_⟩
    simp only [chanDone, if_true, actuate_ch, storeReading_ch, storeReading_par, List.modify_modify_eq]
    rfl

theorem chanDone_adjusted (k : Nat) (en : Bool) (res : Except Cause Half) (s : State) :
    List.Forall₂ (Adjusted s.par en) s.ch (chanDone k en (readResult s.par res) s).ch := by
  obtain ⟨now, h⟩ := chanDone_ch k en (readResult s.par res) s
  rw [h]
  exact forall₂_modify _ fun c _ => .cycled res now

/-! ### A whole cycle in the host context -/

/-- A round of the cycle leaves every other channel as it is. -/
theorem callerChan_ch (en : Bool) (k : Nat) (s : State) :
    ∃ g : Channel → Channel, (∀ c, Adjusted s.par en c (g c)) ∧ (callerChan en k s).ch = s.ch.modify k g := by
  unfold callerChan
  split
  · next hc => exact ⟨id, fun _ => .same, (List.modify_id _ _).symm⟩
  · next c _ =>
    have hpar := readTemperature_par c.addr { s with seq := .cycle k }
    have hch := readTemperature_ch c.addr { s with seq := .cycle k }
    obtain ⟨now, h⟩ := chanDone_ch k en (readTemperature c.addr { s with seq := .cycle k }).1
      (readTemperature c.addr { s with seq := .cycle k }).2
    rw [hpar, hch] at h
    exact ⟨_, fun _ => .cycled _ now, h⟩

/-- A loop of which round `i` rewrites channel `i` only leaves every channel adjusted once. -/
theorem foldl_adjusted {p : Params} {en : Bool} {body : Nat → State → State}
    (hpar : ∀ i s, (body i s).par = s.par)
    (hch : ∀ i s, s.par = p → ∃ g : Channel → Channel, (∀ c, Adjusted p en c (g c)) ∧ (body i s).ch = s.ch.modify i g)
    {l : List Nat} (hl : l.Nodup) {s : State} (hp : s.par = p) {k : Nat} {c : Channel} (hc : s.ch[k]? = some c) :
    ∃ c', (l.foldl (fun t i => body i t) s).ch[k]? = some c' ∧ Adjusted p en c c' ∧ (k ∉ l → c' = c) := by
  induction l generalizing s c with
  | nil => exact ⟨c, hc, .same, fun _ => rfl⟩
  | cons i l ih =>
    obtain ⟨hi, hl⟩ := List.nodup_cons.mp hl
    obtain ⟨g, hg, hbody⟩ := hch i s hp
    have hp' : (body i s).par = p := (hpar i s).trans hp
    by_cases hik : i = k
    · subst hik
      have hc' : (body i s).ch[i]? = some (g c) := by simp [hbody, hc]
      obtain ⟨c', hfold, -, hkept⟩ := ih hl hp' hc'
      exact ⟨c', hfold, hkept hi ▸ hg c, fun h => absurd List.mem_cons_self h⟩
    · have hc' : (body i s).ch[k]? = some c := by simp [hbody, hik, hc]
      obtain ⟨c', hfold, hadj, hkept⟩ := ih hl hp' hc'
      exact ⟨c', hfold, hadj, fun h => hkept fun hk => h (List.mem_cons_of_mem _ hk)⟩

theorem length_eq_of_ident {s t : State} (h : t.ch.map Channel.ident = s.ch.map Channel.ident) :
    t.ch.length = s.ch.length := by
  simpa using congrArg List.length h

theorem callerCycle_adjusted (s : State) :
    List.Forall₂ (Adjusted s.par (s.loop == .runEn)) s.ch (callerCycle s).ch := by
  have hch : (callerCycle s).ch = (forChans (callerChan (s.loop == .runEn)) (acquire .host s)).ch := by simp [callerCycle]
  refine List.forall₂_iff_get.mpr ⟨(length_eq_of_ident (callerCycle_ident s)).symm, fun k hk hk' => ?_⟩
  obtain ⟨c', hfold, hadj, -⟩ := foldl_adjusted (p := s.par) (en := s.loop == .runEn)
    (callerChan_par (s.loop == .runEn)) (fun i t ht => ht ▸ callerChan_ch _ i t) 
    (List.nodup_range (n := s.chanCount)) (s := acquire .host s) rfl (List.getElem?_eq_getElem hk)
  change (forChans _ (acquire .host s)).ch[k]? = _ at hfold
  rw [← hch, List.getElem?_eq_getElem hk'] at hfold
  obtain rfl := Option.some.inj hfold
  exact hadj

/-! ### The engine exit and the transactions -/

theorem engineExit_ch (s : State) : (engineExit s).ch = s.ch.map zeroedChan := by
  simp only [engineExit, release_ch, enterLoop_ch, setReady_ch, forChans_exitChan_ch]
  rfl

/-- The part of the state that `ControlCase` speaks of. -/
def controlView (s : State) : Params × Loop × Bool × Mode × Bool × List Channel :=
  (s.par, s.loop, s.enabled, s.mode, s.readyOut, s.ch)

theorem controlView_eq_iff {s t : State} : controlView t = controlView s ↔ t.par = s.par ∧ t.loop = s.loop ∧
    t.enabled = s.enabled ∧ t.mode = s.mode ∧ t.readyOut = s.readyOut ∧ t.ch = s.ch := by
  simp [controlView]

theorem ControlCase.of_view {s t : State} (h : controlView t = controlView s) : ControlCase s t := by
  obtain ⟨-, hl, he, hm, hr, hc⟩ := controlView_eq_iff.mp h
  exact .kept hl he hm (fun _ => .inl hr) (hc ▸ forall₂_adjusted_refl _ _ _)

/-- What is done in `s'` is done in `s` where the two agree. -/
theorem ControlCase.from_view {s s' t : State} (h : ControlCase s' t) (hv : controlView s' = controlView s)
    (hseq : s'.seq = s.seq) (hw : ∀ w ∈ s'.waiting, w ∈ s.waiting) : ControlCase s t := by
  obtain ⟨hp, hl, he, hm, hr, hc⟩ := controlView_eq_iff.mp hv
  have hruns : loopRuns s' = true → loopRuns s = true := by simp [loopRuns, hl]
  cases h with
  | kept h₁ h₂ h₃ h₄ h₅ => exact .kept (hl ▸ h₁) (he ▸ h₂) (hm ▸ h₃) (hr ▸ h₄) (hp ▸ hl ▸ hc ▸ h₅)
  | started h₁ h₂ h₃ h₄ h₅ => exact .started (hl ▸ h₁) h₂ h₃ (hr ▸ h₄) (hc ▸ h₅)
  | enabled h₁ h₂ h₃ h₄ h₅ => exact .enabled (hl ▸ h₁) h₂ h₃ (hm ▸ h₄) (hc ▸ h₅)
  | disabled h₁ h₂ h₃ h₄ h₅ h₆ => exact .disabled (hl ▸ h₁) h₂ h₃ (hm ▸ h₄) h₅ (hc ▸ h₆)
  | exited h₁ h₂ h₃ h₄ h₅ h₆ =>
    have hsrc : loopRuns s = true ∨ s.seq ≠ .stopped ∨ .callerExit ∈ s.waiting := by
      rw [hseq] at h₁
      exact h₁.imp hruns (Or.imp_right (hw _))
    exact .exited hsrc h₂ h₃ (hm ▸ h₄) h₅ (hc ▸ h₆)

/-- What is done is done up to any state that agrees with the one reached. -/
theorem ControlCase.to_view {s t t' : State} (h : ControlCase s t) (hv : controlView t' = controlView t) :
    ControlCase s t' := by
  obtain ⟨-, hl, he, hm, hr, hc⟩ := controlView_eq_iff.mp hv
  cases h with
  | kept h₁ h₂ h₃ h₄ h₅ => exact .kept (hl ▸ h₁) (he ▸ h₂) (hm ▸ h₃) (hl ▸ hr ▸ h₄) (hc ▸ h₅)
  | started h₁ h₂ h₃ h₄ h₅ => exact .started h₁ (hl ▸ h₂) (he ▸ h₃) (hr ▸ h₄) (hc ▸ h₅)
  | enabled h₁ h₂ h₃ h₄ h₅ => exact .enabled h₁ (hl ▸ h₂) (he ▸ h₃) (hm ▸ h₄) (hc ▸ h₅)
  | disabled h₁ h₂ h₃ h₄ h₅ h₆ => exact .disabled h₁ (hl ▸ h₂) (he ▸ h₃) (hm ▸ h₄) (hr ▸ h₅) (hc ▸ h₆)
  | exited h₁ h₂ h₃ h₄ h₅ h₆ => exact .exited h₁ (hl ▸ h₂) (he ▸ h₃) (hm ▸ h₄) (hr ▸ h₅) (hc ▸ h₆)

/-- The exit of an engine, or of a loop, that `s` has, whatever the lock, the transaction and `g.RUNNING` are by then. -/
theorem engineExit_control {s s' : State} (h : loopRuns s = true ∨ s.seq ≠ .stopped ∨ .callerExit ∈ s.waiting)
    (hm : s'.mode = s.mode) (hc : s'.ch = s.ch) : ControlCase s (engineExit s') :=
  .exited h rfl rfl ((engineExit_mode s').trans hm) rfl (hc ▸ engineExit_ch s')

theorem afterRead_control (res : Except Cause Half) (s : State) : ControlCase s (afterRead res s) := by
  unfold afterRead
  split
  · next k _ =>
    have h := chanDone_adjusted k (s.loop == .runEn) res s
    exact .kept (by simp) (by simp) (by simp) (fun _ => .inl (by simp)) h
  · exact .of_view rfl

/-- After a failed attempt only the buffer and the history have changed (R133). -/
theorem recover_eq (t : Txn) (c : Cause) (s : State) : recover t c s =
    { s with rxbuf := [], events := s.events ++ [.reset, .log (.attemptFailed (t.req.headD 0) c t.attempt)] } := by
  simp [recover, logRecord, transportReset, rxFlush, addEvent]

theorem onAnswer_control (t : Txn) (r : Option (List Byte)) (s : State) : ControlCase s (onAnswer t r s) := by
  unfold onAnswer
  split
  · exact (afterRead_control _ (closeTxn (addEvent (answerEvent r) s))).from_view rfl rfl fun _ h => h
  · rw [recover_eq]
    dsimp only
    split
    · exact (afterRead_control _ _).from_view (s := s) rfl rfl fun _ h => h
    · exact .of_view rfl

theorem acceptFrame_control (f : List Byte) (s : State) : ControlCase s (acceptFrame f s) := by
  unfold acceptFrame
  split
  · split
    · exact onAnswer_control _ _ s
    · exact .of_view rfl
  · exact .of_view rfl

theorem emitRequest_control (t : Txn) (s : State) : ControlCase s (emitRequest t s) := by
  unfold emitRequest
  split
  · split <;> exact .of_view rfl
  · exact .of_view rfl

/-! ### The commands -/

theorem startBody_control (s : State) : ControlCase s (startBody s) := by
  unfold startBody
  split
  · dsimp only
    split <;> exact .started ‹_› (by simp) (by simp) (by simp) (by simp)
  · exact .of_view rfl

theorem enableBody_control (b : Byte) (s : State) : ControlCase s (enableBody b s) := by
  unfold enableBody
  split
  · split
    · next h => exact .enabled h.2 rfl rfl rfl rfl
    · split
      · next h =>
        refine .disabled h.2 rfl rfl ?_ rfl ?_
        · simp [forChans_keeps State.mode]
        · simp only [respondOk_ch, enterLoop_ch, setReady_ch, forChans_disableChan_ch]
          rfl
      · exact .of_view rfl
  · exact .of_view rfl

theorem callerCycle_control (s : State) : ControlCase s (callerCycle s) := by
  refine .kept (by simp) (by simp) (by simp) (fun h => .inr ?_) (callerCycle_adjusted s)
  have hloop : (forChans (callerChan (s.loop == .runEn)) (acquire .host s)).loop = s.loop := by
    simp [forChans_keeps State.loop]
  have hne : (s.loop == .runEn) = false := by simpa using h
  rw [hne] at hloop
  simp [callerCycle, finishCycle, hloop, hne]

/-- A command that takes the lock, seen from outside it. -/
theorem ControlCase.locked {s t : State} (h : ControlCase (acquire .host s) t) : ControlCase s (release t) :=
  (h.from_view (s := s) rfl rfl fun _ hw => hw).to_view rfl

theorem execCase_control {s t : State} {i : Instr} (h : ExecCase s i t) : ControlCase s t := by
  cases h with
  | start => exact (startBody_control _).locked
  | enable b => exact (enableBody_control b _).locked
  | setGains ch kp ki kd _ hp hi hd =>
    exact ControlCase.locked (.kept rfl rfl rfl (fun _ => .inl rfl) (forall₂_modify _ fun _ _ => .gains kp ki kd hp hi hd))
  | setSetpoint ch x _ hx =>
    exact ControlCase.locked (.kept rfl rfl rfl (fun _ => .inl rfl) (forall₂_modify _ fun _ _ => .setpoint x hx))
  | stopCaller hruns =>
    have hexit : ControlCase s (engineExit (acquire .host { s with running := false })) :=
      engineExit_control (.inl hruns) rfl rfl
    exact hexit.to_view rfl
  | stepCycle => exact (callerCycle_control s).to_view rfl
  | discover | assign | readTemp => exact .of_view (by simp [controlView])
  | mbReq3 | mbReq6 => exact emitRequest_control _ s
  | mbResp3 | mbResp6 => exact acceptFrame_control _ s
  | refused | blocked | status | stopCallerBlocked | stopAnswered | stopWaits | stepCycleBlocked | crcInit | crcFeed |
    crcRead => exact .of_view rfl

/-! ### The engine's moves -/

theorem cancelled_spec {s : State} (h : cancelled s = true) :
    s.mode = .background ∧ s.running = false ∧ ∃ k, s.seq = .cycle k := by
  unfold cancelled at h
  cases hseq : s.seq with
  | cycle k => simpa [hseq] using h
  | stopped | wait | finish => simp [hseq] at h

theorem cancel_control {s : State} (h : cancelled s = true) : ControlCase s (cancel s) := by
  obtain ⟨-, -, k, hk⟩ := cancelled_spec h
  have hseq : s.seq ≠ .stopped := by simp [hk]
  have hexit : ControlCase s (engineExit (closeTxn s)) := engineExit_control (.inr (.inl hseq)) rfl rfl
  exact hexit.to_view (by simp [controlView, cancel])

theorem Intake.view {s s' : State} (h : Intake s s') : controlView s' = controlView s := by
  obtain ⟨_, _, _, rfl, _⟩ := h; rfl

theorem ControlCase.intake {s s' t : State} (h : ControlCase s' t) (hin : Intake s s') : ControlCase s t := by
  obtain ⟨inb, wt, buf, rfl, hw⟩ := hin
  exact h.from_view rfl rfl hw

/-- Every step does to the loop state and the channels one of `ControlCase`. -/
theorem stepCase_control {s t : State} (h : StepCase s t) : ControlCase s t := by
  cases h with
  | exec hin _ h => exact (execCase_control h).intake hin
  | @callerExit rest hw =>
    have hmem : Pending.callerExit ∈ s.waiting := hw ▸ List.mem_cons_self
    have hexit : ControlCase s (engineExit (acquire .host { s with waiting := rest })) :=
      engineExit_control (.inr (.inr hmem)) rfl rfl
    exact hexit.to_view rfl
  | idle hin | refused e hin | enterCycle hin | graceOver hin => exact .of_view hin.view
  | accept f hin => exact (acceptFrame_control f _).intake hin
  | timeout hin => exact (onAnswer_control _ _ _).intake hin
  | cancel hin hc => exact (cancel_control hc).intake hin
  | @cancelRequest t _ hc => exact (cancel_control (s := transmit t s) hc).from_view rfl rfl fun _ hw => hw
  | transmit => exact .of_view rfl
  | @engineExit s' hin hseq =>
    have hexit : ControlCase s' (Machine.engineExit (acquire .engine s')) :=
      engineExit_control (.inr (.inl (by simp [hseq]))) rfl rfl
    exact (hexit.to_view (by simp [controlView])).intake hin
  | startRead k =>
    refine .of_view ?_
    unfold Machine.startRead
    split <;> rfl
  | finishCycle =>
    refine .kept (by simp) (by simp) (by simp) (fun h => .inr ?_) (by simpa using forall₂_adjusted_refl _ _ _)
    have hne : (s.loop == .runEn) = false := by simpa using h
    simp [Machine.finishCycle, hne]

theorem step_control {s t : State} (h : step s = .next t) : ControlCase s t := stepCase_control (step_cases h)

end Sys2Proof.Machine

namespace Sys2Proof.Machine

/-! ### What a cycle keeps of a channel -/

theorem advance_spec (p : Params) (m : Option F) (now : Nat) (c : Channel) :
    ∃ k hold, advance p m now c = { c with stage := k, holdSince := hold } ∧
      c.stage.val ≤ k.val ∧ k.val ≤ c.stage.val + 1 := by
  have hnext : ∀ k : Fin 4, k.val ≤ (nextStage k).val ∧ (nextStage k).val ≤ k.val + 1 := by decide
  unfold advance
  split
  · split
    · split
      · exact ⟨_, _, rfl, le_rfl, Nat.le_succ _⟩
      · split
        · exact ⟨_, _, rfl, hnext c.stage⟩
        · exact ⟨_, _, rfl, le_rfl, Nat.le_succ _⟩
    · exact ⟨_, _, rfl, le_rfl, Nat.le_succ _⟩
  · exact ⟨_, _, rfl, le_rfl, Nat.le_succ _⟩

theorem compute_spec (p : Params) (m : Option F) (c : Channel) :
    ∃ i e, (compute p m c).1 = { c with iAcc := i, prevErr := e } := by
  cases m <;> exact ⟨_, _, rfl⟩

/-- R122: an enabled cycle leaves a channel's index, address, gains, setpoint and targets, and raises its stage by at most one. -/
theorem enabledChan_spec (p : Params) (m : Option F) (now : Nat) (c : Channel) :
    ∃ k hold i e d, enabledChan p m now c =
        { c with lastReading := m, stage := k, holdSince := hold, iAcc := i, prevErr := e, dutyOut := d } ∧
      c.stage.val ≤ k.val ∧ k.val ≤ c.stage.val + 1 := by
  obtain ⟨k, hold, hadv, hstage⟩ := advance_spec p m now { c with lastReading := m }
  obtain ⟨i, e, hcomp⟩ := compute_spec p m (advance p m now { c with lastReading := m })
  refine ⟨k, hold, i, e, quant (compute p m (advance p m now { c with lastReading := m })).2, ?_, hstage⟩
  unfold enabledChan
  dsimp only
  rw [hcomp, hadv]

/-! ### R45 items 4 to 6: the control invariant -/

theorem adjusted_stageT {p : Params} {en : Bool} {c c' : Channel} (h : Adjusted p en c c')
    (hc : c.stageT = targetsOf p c.sp) : c'.stageT = targetsOf p c'.sp := by
  cases h with
  | same | gains => exact hc
  | setpoint => rfl
  | cycled res now =>
    cases en
    · exact hc
    · obtain ⟨_, _, _, _, _, h, _⟩ := enabledChan_spec p (readResult p res).toOption now c
      simp only [cycledChan, if_true, h, hc]

/-- Outside RUN_EN no hold starts. -/
theorem adjusted_holdSince {p : Params} {c c' : Channel} (h : Adjusted p false c c') (hc : c.holdSince = none) :
    c'.holdSince = none := by
  cases h with
  | setpoint => rfl
  | _ => exact hc

theorem enableChan_stageT (c : Channel) : (enableChan c).stageT = c.stageT := by
  unfold enableChan snap; split <;> rfl

theorem enableChan_sp (c : Channel) : (enableChan c).sp = c.sp := by
  unfold enableChan snap; split <;> rfl

/-- What a relation carries from entry to entry it carries from list to list. -/
theorem forall_mem_of_forall₂ {R : Channel → Channel → Prop} {P Q : Channel → Prop} {l l' : List Channel}
    (h : List.Forall₂ R l l') (hR : ∀ c c', R c c' → P c → Q c') (hl : ∀ c ∈ l, P c) : ∀ c' ∈ l', Q c' := by
  induction h with
  | nil => exact fun _ h => absurd h List.not_mem_nil
  | cons hc _ ih =>
    obtain ⟨hhead, htail⟩ := List.forall_mem_cons.mp hl
    exact List.forall_mem_cons.mpr ⟨hR _ _ hc hhead, ih htail⟩

theorem controlCase_keeps_controlInv {s t : State} (hpar : t.par = s.par) (h : ControlCase s t) (hs : controlInv s) :
    controlInv t := by
  obtain ⟨hen, hout, hT⟩ := hs
  unfold controlInv
  rw [hpar]
  cases h with
  | kept hloop henabled _ hready hch =>
    refine ⟨by rw [henabled, hloop, hen], fun hne => ?_, forall_mem_of_forall₂ hch (fun _ _ => adjusted_stageT) hT⟩
    have hne' : s.loop ≠ .runEn := hloop ▸ hne
    obtain ⟨hr, hold⟩ := hout hne'
    rw [beq_false_of_ne hne'] at hch
    exact ⟨(hready hne).elim (·.trans hr) id, forall_mem_of_forall₂ hch (fun _ _ => adjusted_holdSince) hold⟩
  | started hidle hloop henabled hready hch =>
    rw [hch, hready, hloop, henabled]
    exact ⟨rfl, fun _ => hout (by simp [hidle]), hT⟩
  | enabled _ hloop henabled _ hch =>
    rw [hch, hloop, henabled]
    exact ⟨rfl, fun hne => absurd rfl hne, List.forall_mem_map.mpr fun c hc => by
      rw [enableChan_stageT, enableChan_sp]; exact hT c hc⟩
  | disabled _ hloop henabled _ hready hch | exited _ hloop henabled _ hready hch =>
    rw [hch, hloop, henabled, hready]
    exact ⟨rfl, fun _ => ⟨rfl, List.forall_mem_map.mpr fun _ _ => rfl⟩, List.forall_mem_map.mpr hT⟩

/-- Settles O50: by cases on what a step does to the loop state and to the channels. -/
theorem controlInvariantKept : Obligations.ControlInvariantKept := fun s t hs h =>
  controlCase_keeps_controlInv (configurationConstant s t h).1 (step_control h) hs

/-! ### R39, R106: the stage -/

theorem adjusted_stage {p : Params} {en : Bool} {c c' : Channel} (h : Adjusted p en c c') :
    c.stage.val ≤ c'.stage.val ∧ c'.stage.val ≤ c.stage.val + 1 := by
  cases h with
  | same | gains | setpoint => exact ⟨le_rfl, Nat.le_succ _⟩
  | cycled res now =>
    cases en
    · exact ⟨le_rfl, Nat.le_succ _⟩
    · obtain ⟨_, _, _, _, _, h, hstage⟩ := enabledChan_spec p (readResult p res).toOption now c
      simpa only [cycledChan, if_true, h] using hstage

/-- Settles O60: a step that starts and ends in RUN_EN neither enables nor zeroes a channel; what else it can do to one raises its stage
by at most one. -/
theorem stageNeverDecreases : Obligations.StageNeverDecreases := by
  intro s t hs h ht i c hc
  cases step_control h with
  | kept _ _ _ _ hch =>
    obtain ⟨hlen, hget⟩ := List.forall₂_iff_get.mp hch
    obtain ⟨hi, rfl⟩ := List.getElem?_eq_some_iff.mp hc
    have hi' : i < t.ch.length := hlen ▸ hi
    exact ⟨t.ch[i], List.getElem?_eq_getElem hi', adjusted_stage (hget i hi hi')⟩
  | started hidle => simp [hs] at hidle
  | enabled hdis => simp [hs] at hdis
  | disabled _ hdis => simp [ht] at hdis
  | exited _ hterm => simp [ht] at hterm

/-! ### R21, R24: the loop state and the mode -/

theorem loopRuns_iff (s : State) : loopRuns s = true ↔ s.loop = .runDis ∨ s.loop = .runEn := by simp [loopRuns]

/-- Under the sequencer invariant only a running loop has an exit. -/
theorem seqInv.loopRuns_of_exit {s : State} (hs : seqInv s)
    (h : loopRuns s = true ∨ s.seq ≠ .stopped ∨ .callerExit ∈ s.waiting) : loopRuns s = true := by
  obtain ⟨-, -, -, -, -, hengine, -, -, -, hwait⟩ := hs
  rcases h with hruns | hseq | hmem
  · exact hruns
  · exact (hengine.mp hseq).2
  · obtain ⟨_, hcmd, -⟩ := hwait _ hmem
    exact Pending.noConfusion hcmd

/-- Settles O46: by cases on what a step does to the loop state. -/
theorem loopTransitions : Obligations.LoopTransitions := by
  refine ⟨fun s t hs h => ?_, fun s t h => ?_⟩
  · cases step_control h with
    | kept hloop => exact .inl hloop
    | started hidle hdis => exact .inr (.inl ⟨hidle, hdis⟩)
    | enabled hdis hen => exact .inr (.inr (.inl ⟨hdis, hen⟩))
    | disabled hen hdis => exact .inr (.inr (.inr (.inl ⟨hen, hdis⟩)))
    | exited hsrc hterm => exact .inr (.inr (.inr (.inr ⟨(loopRuns_iff s).mp (hs.loopRuns_of_exit hsrc), hterm⟩)))
  · cases step_control h with
    | kept hloop _ hmode => exact ⟨hloop.trans, fun hne => absurd hmode hne⟩
    | started hidle hdis => exact ⟨fun hterm => by simp [hterm] at hidle, fun _ => ⟨hidle, hdis⟩⟩
    | enabled hdis _ _ hmode => exact ⟨fun hterm => by simp [hterm] at hdis, fun hne => absurd hmode hne⟩
    | disabled hen _ _ hmode => exact ⟨fun hterm => by simp [hterm] at hen, fun hne => absurd hmode hne⟩
    | exited _ hterm _ hmode => exact ⟨fun _ => hterm, fun hne => absurd hmode hne⟩

end Sys2Proof.Machine

namespace Sys2Proof.Machine

/-! ### What the interfaces decode to -/

theorem decodeRequest_cases {f : List Byte} {i : Instr} (h : decode .tx f = .ok i) :
    (∃ a r, i = .mbReq3 a r) ∨ ∃ a w, i = .mbReq6 a w := by
  change decodeRequest f = .ok i at h
  unfold decodeRequest at h
  split at h
  · split at h
    · cases h; exact .inl ⟨_, _, rfl⟩
    · split at h <;> cases h
      exact .inr ⟨_, _, rfl⟩
  · cases h

theorem decodeResponse_cases {n : Nat} {f : List Byte} {i : Instr} (h : decode (rxPort n) f = .ok i) :
    (∃ a fn c d crc, i = .mbResp3 a fn c d crc) ∨ ∃ a fn r d crc, i = .mbResp6 a fn r d crc := by
  unfold rxPort at h
  split at h
  · change decodeResp6 f = .ok i at h
    unfold decodeResp6 at h
    split at h <;> cases h
    exact .inr ⟨_, _, _, _, _, rfl⟩
  · change decodeResp3 f = .ok i at h
    unfold decodeResp3 at h
    split at h <;> cases h
    exact .inl ⟨_, _, _, _, _, rfl⟩

/-- What the opcode table gives: a host command, and the CRC commands from their own opcodes only. The cases are the table's: each
opcode, then each number of operand bytes. -/
theorem assemble_cases {op : Byte} {args : List Byte} {i : Instr} (h : assemble op args = some i) :
    i.port = .host ∧ (i = .crcInit → op = 0x10 ∧ args = []) ∧ ∀ b, i = .crcFeed b → op = 0x11 ∧ args = [b] := by
  have hop : ∀ k : Byte, op.toNat = k.toNat → op = k := fun _ => BitVec.eq_of_toNat_eq
  unfold assemble at h
  generalize op.toNat = n at h hop
  rcases n with _ | _ | _ | _ | _ | _ | _ | _ | _ | _ | _ | _ | _ | _ | _ | _ | _ | _ | _ | n
  all_goals
    rcases args with _ | ⟨_, _ | ⟨_, _ | ⟨_, _ | ⟨_, _ | ⟨_, _ | ⟨_, _ | ⟨_, _ | ⟨_, _ | ⟨_, _ | ⟨_, _ | ⟨_, _ | ⟨_, _ | ⟨_,
      _ | ⟨_, _⟩⟩⟩⟩⟩⟩⟩⟩⟩⟩⟩⟩⟩⟩ <;> cases h
  all_goals
    exact ⟨rfl, fun hi => ⟨hop 0x10 (by cases hi <;> rfl), by cases hi <;> rfl⟩,
      fun b hi => ⟨hop 0x11 (by cases hi <;> rfl), by cases hi <;> rfl⟩⟩

/-- A message that decodes is an opcode with the operand bytes of its table entry. -/
theorem decodeHost_assemble {m : List Byte} {i : Instr} (h : decode .host m = .ok i) :
    ∃ op args, m = op :: args ∧ assemble op args = some i := by
  cases m with
  | nil => cases h
  | cons op args =>
    refine ⟨op, args, rfl, ?_⟩
    simp only [decode, decodeHost] at h
    split at h
    · cases h
    · split at h
      · next heq => rw [heq, Except.ok.inj h]
      · cases h

/-- A host message is no frame. -/
theorem decodeHost_port {m : List Byte} {i : Instr} (h : decode .host m = .ok i) : i.port = .host := by
  obtain ⟨_, _, -, ha⟩ := decodeHost_assemble h
  obtain ⟨hport, -, -⟩ := assemble_cases ha
  exact hport

theorem decodeHost_crcInit {m : List Byte} (h : decode .host m = .ok .crcInit) : m = [0x10] := by
  obtain ⟨_, _, rfl, ha⟩ := decodeHost_assemble h
  obtain ⟨-, hinit, -⟩ := assemble_cases ha
  obtain ⟨rfl, rfl⟩ := hinit rfl
  rfl

theorem decodeHost_crcFeed {m : List Byte} {b : Byte} (h : decode .host m = .ok (.crcFeed b)) : m = [0x11, b] := by
  obtain ⟨_, _, rfl, ha⟩ := decodeHost_assemble h
  obtain ⟨-, -, hfeed⟩ := assemble_cases ha
  obtain ⟨rfl, rfl⟩ := hfeed b rfl
  rfl

theorem decode_req3 (a : Byte) (r : Half) : decode .tx (req3 a r) = .ok (.mbReq3 a r) := by
  have hdec : ∀ h l cl ch : Byte, crcOk [a, 0x03, h, l, 0x00, 0x01, cl, ch] = true →
      decodeRequest [a, 0x03, h, l, 0x00, 0x01, cl, ch] = .ok (.mbReq3 a (be16 h l)) := by
    intro h l cl ch hcrc
    simp only [decodeRequest, hcrc]
    simp
  have h := hdec (hi r) (lo r) _ _ (crcOk_withCrc [a, 0x03, hi r, lo r, 0x00, 0x01])
  rwa [be16_hi_lo] at h

/-! ### R29: the host CRC accumulator -/

theorem startBody_crcHost (s : State) : (startBody s).crcHost = s.crcHost := by
  unfold startBody
  split
  · dsimp only; split <;> simp
  · rfl

theorem enableBody_crcHost (b : Byte) (s : State) : (enableBody b s).crcHost = s.crcHost := by
  unfold enableBody
  split
  · split
    · rfl
    · split
      · simp [forChans_keeps State.crcHost]
      · rfl
  · rfl

theorem emitRequest_crcHost (t : Txn) (s : State) : (emitRequest t s).crcHost = s.crcHost := by
  unfold emitRequest
  split
  · split <;> rfl
  · rfl

theorem afterRead_crcHost (res : Except Cause Half) (s : State) : (afterRead res s).crcHost = s.crcHost := by
  unfold afterRead; split <;> simp

theorem onAnswer_crcHost (t : Txn) (r : Option (List Byte)) (s : State) : (onAnswer t r s).crcHost = s.crcHost := by
  unfold onAnswer
  split
  · simp [afterRead_crcHost]
  · dsimp only
    split <;> simp [afterRead_crcHost]

theorem acceptFrame_crcHost (f : List Byte) (s : State) : (acceptFrame f s).crcHost = s.crcHost := by
  unfold acceptFrame
  split
  · split
    · exact onAnswer_crcHost _ _ s
    · rfl
  · rfl

theorem execCase_crcHost {s t : State} {i : Instr} (h : ExecCase s i t) (hinit : i ≠ .crcInit)
    (hfeed : ∀ b, i ≠ .crcFeed b) : t.crcHost = s.crcHost := by
  cases h with
  | crcInit => exact absurd rfl hinit
  | crcFeed b => exact absurd rfl (hfeed b)
  | start => exact startBody_crcHost _
  | enable b => exact enableBody_crcHost b _
  | mbReq3 | mbReq6 => exact emitRequest_crcHost _ s
  | mbResp3 | mbResp6 => exact acceptFrame_crcHost _ s
  | _ => simp [gainsBody, setpointBody, callerExit]

/-- A step changes the accumulator only by running one of the two commands. -/
theorem stepCase_crcHost {s t : State} (h : StepCase s t) (hne : t.crcHost ≠ s.crcHost) :
    Issued s .crcInit ∨ ∃ b, Issued s (.crcFeed b) := by
  by_contra hnot
  obtain ⟨hinit, hfeed⟩ := not_or.mp hnot
  apply hne
  cases h with
  | exec hin hi h =>
    rw [← hin.crcHost]
    exact execCase_crcHost h (fun he => hinit (he ▸ hi)) fun b he => hfeed ⟨b, he ▸ hi⟩
  | accept f hin => exact (acceptFrame_crcHost f _).trans hin.crcHost
  | timeout hin => exact (onAnswer_crcHost _ none _).trans hin.crcHost
  | idle hin | refused e hin | enterCycle hin | graceOver hin => exact hin.crcHost
  | cancel hin | engineExit hin => simp [cancel, hin.crcHost]
  | callerExit | cancelRequest | transmit | finishCycle => simp [cancel, callerExit]
  | startRead k => unfold startRead; split <;> rfl

/-- Under the sequencer invariant neither the waiting commands nor the bus can bring a CRC command. -/
theorem issued_message {s : State} {i : Instr} (hs : seqInv s) (hi : Issued s i) (hport : i.port = .host)
    (hlock : takesLock i = false) : ∃ m rest, s.inbox = .host m :: rest ∧ decode .host m = .ok i := by
  cases hi with
  | message hm hd => exact ⟨_, _, hm, hd⟩
  | waiting hw =>
    obtain ⟨-, -, -, -, -, -, -, -, -, hwait⟩ := hs
    obtain ⟨j, hj, hjl⟩ := hwait _ hw
    cases hj
    simp [hlock] at hjl
  | request _ hd => obtain ⟨_, _, rfl⟩ | ⟨_, _, rfl⟩ := decodeRequest_cases hd <;> cases hport
  | response hd => obtain ⟨_, _, _, _, _, rfl⟩ | ⟨_, _, _, _, _, rfl⟩ := decodeResponse_cases hd <;> cases hport

/-- Settles O12: no other instruction writes the accumulator, and these two come only as messages. -/
theorem crcAccumulatorIsolated : Obligations.CrcAccumulatorIsolated := by
  refine ⟨fun i s t hinit hfeed h => execCase_crcHost (exec_cases h) hinit hfeed, fun s t hs h hne => ?_⟩
  rcases stepCase_crcHost (step_cases h) hne with hi | ⟨b, hi⟩
  · obtain ⟨m, rest, hm, hd⟩ := issued_message hs hi rfl rfl
    exact ⟨rest, .inl (decodeHost_crcInit hd ▸ hm)⟩
  · obtain ⟨m, rest, hm, hd⟩ := issued_message hs hi rfl rfl
    exact ⟨rest, .inr ⟨b, decodeHost_crcFeed hd ▸ hm⟩⟩

end Sys2Proof.Machine

namespace Sys2Proof.Machine

/-! ### R23, R28, R31, R59, R139: the sequencer invariant -/

/-- The part of the sequencer invariant that speaks of no lock, cycle or transaction. -/
def modeInv (s : State) : Prop :=
  (s.mode = .unset ↔ s.loop = .idle) ∧
  (s.seq ≠ .stopped ↔ s.mode = .background ∧ loopRuns s = true) ∧
  (s.running = true → loopRuns s = true) ∧
  (s.mode = .caller → loopRuns s = true → s.running = true) ∧
  (s.stopWait = true → s.mode = .background ∧ s.running = false ∧ s.seq ≠ .stopped) ∧
  ∀ w ∈ s.waiting, ∃ i, w = .cmd i ∧ takesLock i = true

theorem seqInv.modeInv {s : State} (hs : seqInv s) : modeInv s := by
  obtain ⟨-, -, -, -, hs⟩ := hs
  exact hs

/-- With the lock free, and outside a cycle. -/
theorem modeInv.outside {s : State} (hs : modeInv s) (hl : s.lock = .free) (hc : inCycle s.seq = false)
    (ht : s.txn = none) : seqInv s := by
  refine ⟨.inl hl, by simp [hl, hc], fun k hk => ?_, fun t ht' => ?_, hs⟩
  · simp [hk, inCycle] at hc
  · simp [ht] at ht'

/-- Inside a cycle, with no transaction. -/
theorem modeInv.inside {s : State} (hs : modeInv s) (hl : s.lock = .engine) (hc : inCycle s.seq = true)
    (hk : ∀ k, s.seq = .cycle k → k < s.chanCount) (ht : s.txn = none) : seqInv s := by
  refine ⟨.inr hl, by simp [hl, hc], hk, fun t ht' => ?_, hs⟩
  simp [ht] at ht'

theorem seqInv.txn_none {s : State} (hs : seqInv s) (h : ∀ k, s.seq ≠ .cycle k) : s.txn = none := by
  obtain ⟨-, -, -, htxn, -⟩ := hs
  by_contra hne
  obtain ⟨t, ht⟩ := Option.ne_none_iff_exists'.mp hne
  obtain ⟨k, _, hk, -⟩ := htxn t ht
  exact h k hk

/-- Whoever finds the lock free finds the engine outside a cycle, and no transaction. -/
theorem seqInv.of_free {s : State} (hs : seqInv s) (hl : s.lock = .free) : inCycle s.seq = false ∧ s.txn = none := by
  have hc : inCycle s.seq = false := by
    obtain ⟨-, hcyc, -⟩ := hs
    simpa [hl] using hcyc
  exact ⟨hc, hs.txn_none fun k hk => by simp [hk, inCycle] at hc⟩

/-- The mode part where neither the sequencer nor the loop starts or stops, and only STOP's wait may have ended. -/
theorem modeInv.congr {s t : State} (hs : modeInv s) (hseq : t.seq = .stopped ↔ s.seq = .stopped)
    (hidle : t.loop = .idle ↔ s.loop = .idle) (hruns : loopRuns t = loopRuns s) (hmode : t.mode = s.mode)
    (hrun : t.running = s.running) (hsw : t.stopWait = true → s.stopWait = true)
    (hw : ∀ w ∈ t.waiting, w ∈ s.waiting) : modeInv t := by
  obtain ⟨hm, he, hr, hc, hst, hwait⟩ := hs
  unfold Machine.modeInv
  rw [hruns, hmode, hidle, hrun, Ne, hseq]
  exact ⟨hm, he, hr, hc, fun h => hst (hsw h), fun w h => hwait w (hw w h)⟩

/-- The mode part after the exit of an engine or a loop that STOP was asked of. -/
theorem modeInv.exited {s t : State} (hs : modeInv s) (hruns : loopRuns s = true) (hloop : t.loop = .terminated)
    (hmode : t.mode = s.mode) (hseq : t.seq = .stopped) (hrun : t.running = false) (hsw : t.stopWait = false)
    (hw : ∀ w ∈ t.waiting, w ∈ s.waiting) : modeInv t := by
  obtain ⟨hm, -, -, -, -, hwait⟩ := hs
  have hne : s.mode ≠ .unset := fun h => by simp [loopRuns, hm.mp h] at hruns
  have hterm : loopRuns t = false := by simp [loopRuns, hloop]
  unfold Machine.modeInv
  rw [hterm, hmode, hloop, hrun, hsw, hseq]
  exact ⟨by simp [hne], by simp, nofun, nofun, nofun, fun w h => hwait w (hw w h)⟩

/-- A transaction that has ended leaves the rest of the invariant. -/
theorem seqInv.closed {s t : State} (hs : seqInv s) (hlock : t.lock = s.lock) (hseq : t.seq = s.seq) (hch : t.ch = s.ch)
    (ht : t.txn = none) (hmode : Machine.modeInv t) : seqInv t := by
  obtain ⟨h₁, h₂, h₃, -, -⟩ := hs
  refine ⟨hlock ▸ h₁, by rw [hlock, hseq]; exact h₂, fun k hk => ?_, fun _ h => ?_, hmode⟩
  · simpa [State.chanCount, hch] using h₃ k (hseq ▸ hk)
  · simp [ht] at h

theorem Intake.seqInv {s s' : State} (hin : Intake s s') (hs : seqInv s) : seqInv s' := by
  obtain ⟨inb, wt, buf, rfl, hw⟩ := hin
  obtain ⟨h₁, h₂, h₃, h₄, hmode⟩ := hs
  exact ⟨h₁, h₂, h₃, h₄, modeInv.congr (s := s) hmode .rfl .rfl rfl rfl rfl id hw⟩

/-! #### Transactions -/

theorem seqInv_transmit {s : State} {t : Txn} (hs : seqInv s) (ht : s.txn = some t) : seqInv (transmit t s) := by
  obtain ⟨h₁, h₂, h₃, h₄, hmode⟩ := hs
  refine ⟨h₁, h₂, h₃, ?_, hmode⟩
  rintro _ ⟨⟩
  exact h₄ t ht

/-- The sequencer stays among the channels. -/
theorem enterChan_lt (k : Nat) (s : State) : ∀ j, (enterChan k s).seq = .cycle j → j < (enterChan k s).chanCount := by
  intro j hj
  rw [enterChan_seq] at hj
  split at hj
  · cases hj; assumption
  · cases hj

/-- A channel is done with, or, outside a cycle, nothing is. -/
theorem seqInv_afterRead {s : State} {k : Nat} (res : Except Cause Half) (hs : seqInv s) (hk : s.seq = .cycle k)
    (ht : s.txn = none) : seqInv (afterRead res s) := by
  have hlock : s.lock = .engine := by
    obtain ⟨-, hcyc, -⟩ := hs
    exact hcyc.mpr (by simp [hk, inCycle])
  have hafter : afterRead res s = enterChan (k + 1) (chanDone k (s.loop == .runEn) (readResult s.par res) s) := by
    simp [afterRead, hk]
  rw [hafter]
  apply modeInv.inside
  · refine hs.modeInv.congr ?_ (by simp) (by simp [loopRuns]) (by simp) (by simp) (by simp) (by simp)
    rw [enterChan_seq, hk]
    split <;> simp
  · simpa using hlock
  · rw [enterChan_seq]
    split <;> rfl
  · exact enterChan_lt (k + 1) _
  · simpa using ht

theorem seqInv_onAnswer {s : State} {t : Txn} (r : Option (List Byte)) (hs : seqInv s) (ht : s.txn = some t) :
    seqInv (onAnswer t r s) := by
  have hinv := hs
  obtain ⟨h₁, h₂, h₃, h₄, hmode⟩ := hinv
  obtain ⟨k, c, hk, hc, hreq, hlen, hkind, hlim, -⟩ := h₄ t ht
  unfold onAnswer
  split
  · exact seqInv_afterRead _ (hs.closed (t := closeTxn (addEvent (answerEvent r) s)) rfl rfl rfl rfl hmode) hk rfl
  · next cause _ =>
    rw [recover_eq]
    dsimp only
    split
    · exact seqInv_afterRead _ (hs.closed (s := s) rfl rfl rfl rfl hmode) hk rfl
    · next hmore =>
      refine ⟨h₁, h₂, h₃, ?_, hmode⟩
      rintro _ ⟨⟩
      exact ⟨k, c, hk, hc, hreq, hlen, hkind, hlim, Nat.le_add_left 1 _, le_max_of_le_right (not_le.mp hmore)⟩

theorem seqInv_acceptFrame {s : State} (f : List Byte) (hs : seqInv s) : seqInv (acceptFrame f s) := by
  unfold acceptFrame
  split
  · split
    · exact seqInv_onAnswer _ hs ‹_›
    · exact hs
  · exact hs

/-- The request that is due is the one its bytes decode to. -/
theorem seqInv_emitRequest {s : State} {t q : Txn} (hs : seqInv s) (ht : s.txn = some t)
    (hreq : q.req = t.req) : seqInv (emitRequest q s) := by
  simp only [emitRequest, ht, hreq, if_true]
  exact seqInv_transmit hs ht

/-! #### The host's commands -/

/-- What a command does with the lock held, seen from outside it, if it leaves the sequencer alone. -/
theorem seqInv_locked {s t : State} (hs : seqInv s) (hl : s.lock = .free) (hseq : t.seq = s.seq) (ht : t.txn = s.txn)
    (hmode : modeInv t) : seqInv (release t) := by
  obtain ⟨hcyc, htxn⟩ := hs.of_free hl
  exact modeInv.outside (s := release t) hmode rfl (by simpa [hseq] using hcyc) (ht.trans htxn)

/-- A loop that starts has an engine exactly if it runs in the background (R112). -/
theorem seqInv_startBody {s : State} (hs : seqInv s) (hl : s.lock = .free) :
    seqInv (release (startBody (acquire .host s))) := by
  obtain ⟨-, htxn⟩ := hs.of_free hl
  have hmode := hs.modeInv
  by_cases hidle : s.loop = .idle
  · obtain ⟨hm, -, -, -, hst, hwait⟩ := hmode
    have hsw : s.stopWait = false := Bool.eq_false_iff.mpr fun h => by simpa [hm.mpr hidle] using (hst h).1
    unfold startBody
    rw [acquire_loop, if_pos hidle]
    dsimp only
    split
    · exact modeInv.outside (by simpa [modeInv, loopRuns, hsw] using hwait) rfl rfl (by simpa using htxn)
    · exact modeInv.outside (by simpa [modeInv, loopRuns, hsw] using hwait) rfl rfl (by simpa using htxn)
  · unfold startBody
    rw [acquire_loop, if_neg hidle]
    exact seqInv_locked hs hl rfl rfl hmode

/-- A loop that is enabled or disabled goes on running. -/
theorem seqInv_enableBody {s : State} (b : Byte) (hs : seqInv s) (hl : s.lock = .free) :
    seqInv (release (enableBody b (acquire .host s))) := by
  have hmode := hs.modeInv
  unfold enableBody
  split
  · split
    · next h =>
      have hloop : s.loop = .runDis := h.2
      exact seqInv_locked hs hl rfl rfl (hmode.congr .rfl (by simp [hloop]) (by simp [loopRuns, hloop]) rfl rfl id fun _ h => h)
    · split
      · next h =>
        have hloop : s.loop = .runEn := h.2
        refine seqInv_locked hs hl ?_ ?_ (hmode.congr ?_ ?_ ?_ ?_ ?_ ?_ ?_)
        · simp [forChans_keeps State.seq]
        · simp [forChans_keeps State.txn]
        · simp [forChans_keeps State.seq]
        · simp [hloop]
        · simp [loopRuns, hloop]
        · simp [forChans_keeps State.mode]
        · simp [forChans_keeps State.running]
        · simp [forChans_keeps State.stopWait]
        · simp [forChans_keeps State.waiting]
      · exact seqInv_locked hs hl rfl rfl hmode
  · exact seqInv_locked hs hl rfl rfl hmode

/-- The exit of an engine or a loop that STOP was asked of (R115). -/
theorem seqInv_engineExit {s t : State} (hs : seqInv s) (hruns : loopRuns s = true) (hmode : t.mode = s.mode)
    (ht : t.txn = none) (hrun : t.running = false) (hw : ∀ w ∈ t.waiting, w ∈ s.waiting) :
    seqInv (answerStop (engineExit t)) := by
  have hsw : (answerStop (engineExit t)).stopWait = false := by
    unfold answerStop
    split
    · rfl
    · next h => exact Bool.eq_false_iff.mpr h
  have hexit : modeInv (answerStop (engineExit t)) :=
    hs.modeInv.exited hruns (by simp) (by simpa using hmode) (by simp) (by simpa using hrun) hsw (by simpa using hw)
  exact hexit.outside (by simp) (by simp [inCycle]) (by simpa using ht)

theorem runAttempts_txn (more : Nat) (t : Txn) (s : State) : (runAttempts more t s).2.txn = none := by
  induction more generalizing t s with
  | zero => unfold runAttempts; split <;> rfl
  | succ more ih =>
    unfold runAttempts
    split
    · rfl
    · exact ih _ _

@[simp] theorem runTxn_txn (q : List Byte) (n lim : Nat) (k : RespKind) (s : State) : (runTxn q n lim k s).2.txn = none :=
  runAttempts_txn _ _ s

@[simp] theorem readTemperature_txn (a : Byte) (s : State) : (readTemperature a s).2.txn = none := by
  simp [readTemperature]

@[simp] theorem discoverAddress_txn (s : State) : (discoverAddress s).2.txn = none := by
  unfold discoverAddress; dsimp only; split <;> simp

@[simp] theorem assignAddress_txn (w : Half) (s : State) : (assignAddress w s).2.txn = none := by
  have h := discoverAddress_txn s
  unfold assignAddress
  split
  · simp_all
  · dsimp only; split <;> simp

theorem callerCycle_txn {s : State} (h : s.txn = none) : (callerCycle s).txn = none := by
  unfold callerCycle
  rw [finishCycle_txn]
  refine forChans_induction (P := fun t => t.txn = none) (fun i t ht => ?_) (s := acquire .host s) h
  unfold callerChan
  split
  · exact ht
  · simp

/-- A state that differs from one with a stopped sequencer in its transaction at most, which has ended. -/
theorem seqInv_stopped {s t : State} (hs : seqInv s) (hstop : s.seq = .stopped) (hl : t.lock = .free)
    (hseq : t.seq = .stopped) (ht : t.txn = none) (hloop : t.loop = s.loop) (hmode : t.mode = s.mode)
    (hrun : t.running = s.running) (hsw : t.stopWait = s.stopWait) (hw : t.waiting = s.waiting) : seqInv t :=
  (hs.modeInv.congr (by simp [hseq, hstop]) (by simp [hloop]) (by simp [loopRuns, hloop]) hmode hrun (by simp [hsw])
    (by simp [hw])).outside hl (by simp [hseq, inCycle]) ht

/-- With the sequencer stopped the lock is free. -/
theorem seqInv.lock_free {s : State} (hs : seqInv s) (hstop : s.seq = .stopped) : s.lock = .free := by
  obtain ⟨hl, hcyc, -⟩ := hs
  exact hl.resolve_right fun h => by simpa [hstop, inCycle] using hcyc.mp h

/-- In caller mode there is no engine. -/
theorem seqInv.stopped_of_caller {s : State} (hs : seqInv s) (hm : s.mode = .caller) : s.seq = .stopped := by
  obtain ⟨-, he, -⟩ := hs.modeInv
  by_contra h
  simpa [hm] using (he.mp h).1

/-- While the loop runs, the mode is one of two. -/
theorem seqInv.background {s : State} (hs : seqInv s) (hruns : loopRuns s = true) (hm : s.mode ≠ .caller) :
    s.mode = .background := by
  obtain ⟨hunset, -⟩ := hs.modeInv
  cases hmode : s.mode with
  | unset => simp [loopRuns, hunset.mp hmode] at hruns
  | background => rfl
  | caller => exact absurd hmode hm

theorem seqInv_stopCaller {s : State} (hs : seqInv s) (hruns : loopRuns s = true) (hm : s.mode = .caller) :
    seqInv (callerExit { s with running := false }) := by
  have hstop := hs.stopped_of_caller hm
  have hsw : s.stopWait = false := by
    obtain ⟨-, -, -, -, hst, -⟩ := hs.modeInv
    exact Bool.eq_false_iff.mpr fun h => (hst h).2.2 hstop
  have h := seqInv_engineExit (t := acquire .host { s with running := false }) hs hruns rfl
    (hs.txn_none (by simp [hstop])) rfl fun _ h => h
  rwa [answerStop, engineExit_stopWait, if_neg (by simpa using hsw)] at h

/-- STOP leaves its mark for an engine (R114). -/
theorem seqInv_stopWaits {s : State} (hs : seqInv s) (hruns : loopRuns s = true) (hm : s.mode ≠ .caller)
    (hseq : s.seq ≠ .stopped) : seqInv { s with running := false, stopWait := true } := by
  have hback := hs.background hruns hm
  obtain ⟨h₁, h₂, h₃, h₄, h₅, h₆, -, -, -, hwait⟩ := hs
  exact ⟨h₁, h₂, h₃, h₄, h₅, h₆, nofun, fun h => absurd h hm, fun _ => ⟨hback, rfl, hseq⟩, hwait⟩

theorem seqInv_blocked {s : State} {i : Instr} (hs : seqInv s) (hi : takesLock i = true) :
    seqInv { s with waiting := s.waiting ++ [.cmd i] } := by
  obtain ⟨h₁, h₂, h₃, h₄, h₅, h₆, h₇, h₈, h₉, hwait⟩ := hs
  refine ⟨h₁, h₂, h₃, h₄, h₅, h₆, h₇, h₈, h₉, fun w hw => ?_⟩
  rcases List.mem_append.mp hw with hw | hw
  · exact hwait w hw
  · exact ⟨i, List.mem_singleton.mp hw, hi⟩

/-- A request frame that is due is the one of the transaction at hand, a read of the channel at hand. -/
theorem seqInv_due {s : State} {t : Txn} {i : Instr} (hs : seqInv s) (ht : s.txn = some t) (hd : decode .tx t.req = .ok i) :
    ∃ a r, i = .mbReq3 a r ∧ t.req = req3 a r := by
  obtain ⟨-, -, -, htxn, -⟩ := hs
  obtain ⟨_, c, -, -, hreq, -⟩ := htxn t ht
  rw [hreq, decode_req3] at hd
  exact ⟨_, _, (Except.ok.inj hd).symm, hreq⟩

theorem request3Txn_req (p : Params) (a : Byte) (r : Half) : (request3Txn p a r).req = req3 a r := by
  unfold request3Txn; split <;> rfl

/-- An instruction keeps the invariant; a request frame does if it is due. -/
theorem execCase_seqInv {s t : State} {i : Instr} (hs : seqInv s)
    (hdue : i.port = .tx → ∃ q, s.txn = some q ∧ decode .tx q.req = .ok i) (h : ExecCase s i t) : seqInv t := by
  cases h with
  | refused | crcInit | crcFeed | crcRead => exact hs
  | blocked hi => exact seqInv_blocked hs hi
  | start hl => exact seqInv_startBody hs hl
  | enable b hl => exact seqInv_enableBody b hs hl
  | setGains _ _ _ _ hl | setSetpoint _ _ hl | status _ hl => exact seqInv_locked hs hl rfl rfl hs.modeInv
  | stopCaller hruns _ hm => exact seqInv_stopCaller hs hruns hm
  | stopCallerBlocked _ hm hl | stepCycleBlocked hm hl => exact absurd (hs.lock_free (hs.stopped_of_caller hm)) hl
  | stopAnswered hruns _ hm hstop =>
    obtain ⟨-, he, -⟩ := hs.modeInv
    exact absurd hstop (he.mpr ⟨hs.background hruns hm, hruns⟩)
  | stopWaits hruns _ hm hseq => exact seqInv_stopWaits hs hruns hm hseq
  | stepCycle hm =>
    have hstop := hs.stopped_of_caller hm
    exact seqInv_stopped hs hstop rfl rfl (callerCycle_txn (hs.txn_none (by simp [hstop]))) (by simp) (by simp) (by simp)
      (by simp) (by simp)
  | discover _ hb | assign _ _ hb | readTemp _ _ hb =>
    have hstop : s.seq = .stopped := by simpa using (Bool.and_eq_true_iff.mp hb).2
    exact seqInv_stopped hs hstop (by simpa using hs.lock_free hstop) (by simpa using hstop) (by simp) (by simp) (by simp)
      (by simp) (by simp) (by simp)
  | mbReq3 a r =>
    obtain ⟨q, hq, hd⟩ := hdue rfl
    obtain ⟨_, _, heq, hreq⟩ := seqInv_due hs hq hd
    cases heq
    exact seqInv_emitRequest hs hq ((request3Txn_req _ a r).trans hreq.symm)
  | mbReq6 a w =>
    obtain ⟨q, hq, hd⟩ := hdue rfl
    obtain ⟨_, _, heq, -⟩ := seqInv_due hs hq hd
    cases heq
  | mbResp3 | mbResp6 => exact seqInv_acceptFrame _ hs

/-! #### Every step -/

theorem port_of_takesLock {i : Instr} (h : takesLock i = true) : i.port = .host := by
  cases i with
  | start | enable | setGains | setSetpoint | status => rfl
  | _ => cases h

/-- A frame to transmit is issued by its transaction only. -/
theorem issued_tx {s : State} {i : Instr} (hs : seqInv s) (hi : Issued s i) (hport : i.port = .tx) :
    ∃ q, s.txn = some q ∧ decode .tx q.req = .ok i := by
  cases hi with
  | message _ hd => exact absurd ((decodeHost_port hd).symm.trans hport) (by decide)
  | waiting hw =>
    obtain ⟨-, -, -, -, -, -, -, -, -, hwait⟩ := hs
    obtain ⟨j, hj, hjl⟩ := hwait _ hw
    cases hj
    exact absurd ((port_of_takesLock hjl).symm.trans hport) (by decide)
  | request ht hd => exact ⟨_, ht, hd⟩
  | response hd => obtain ⟨_, _, _, _, _, rfl⟩ | ⟨_, _, _, _, _, rfl⟩ := decodeResponse_cases hd <;> cases hport

/-- An engine's exit at a point of its work. -/
theorem seqInv_cancel {s : State} (hs : seqInv s) (hc : cancelled s = true) : seqInv (cancel s) := by
  obtain ⟨-, hrun, k, hk⟩ := cancelled_spec hc
  obtain ⟨-, he, -⟩ := hs.modeInv
  exact seqInv_engineExit hs (he.mp (by simp [hk])).2 rfl rfl hrun fun _ h => h

theorem seqInv_enterCycle {s : State} (hs : seqInv s) (hseq : s.seq = .wait) :
    seqInv (enterChan 0 (acquire .engine s)) := by
  apply modeInv.inside
  · refine hs.modeInv.congr ?_ .rfl rfl rfl rfl id fun _ h => h
    rw [enterChan_seq, hseq]
    split <;> simp
  · rfl
  · rw [enterChan_seq]
    split <;> rfl
  · exact enterChan_lt 0 _
  · exact hs.txn_none (by simp [hseq])

theorem seqInv_startRead {s : State} {k : Nat} (hs : seqInv s) (hseq : s.seq = .cycle k) : seqInv (startRead k s) := by
  have ⟨h₁, h₂, h₃, h₄, hmode⟩ := hs
  unfold startRead
  split
  · next hc => exact absurd (h₃ k hseq) (by simpa [State.chanCount] using hc)
  · next c hc =>
    refine ⟨h₁, h₂, h₃, ?_, hmode⟩
    rintro _ ⟨⟩
    exact ⟨k, c, hseq, hc, rfl, rfl, rfl, rfl, le_rfl, le_max_left _ _⟩

theorem seqInv_finishCycle {s : State} (hs : seqInv s) (ht : s.txn = none) (hseq : s.seq = .finish) :
    seqInv (finishCycle .wait s) :=
  (hs.modeInv.congr (t := finishCycle .wait s) (by simp [finishCycle, hseq]) (by simp) (by simp [loopRuns]) (by simp)
    (by simp) (by simp) (by simp)).outside rfl rfl (by simpa using ht)

theorem stepCase_seqInv {s t : State} (hs : seqInv s) (h : StepCase s t) : seqInv t := by
  cases h with
  | exec hin hi h => exact execCase_seqInv (hin.seqInv hs) (fun hport => hin.txn ▸ issued_tx hs hi hport) h
  | callerExit hw =>
    obtain ⟨-, -, -, -, -, -, -, -, -, hwait⟩ := hs
    obtain ⟨_, hcmd, -⟩ := hwait _ (hw ▸ List.mem_cons_self)
    cases hcmd
  | idle hin | refused e hin => exact hin.seqInv hs
  | accept f hin => exact seqInv_acceptFrame f (hin.seqInv hs)
  | timeout hin ht => exact seqInv_onAnswer none (hin.seqInv hs) ht
  | cancel hin hc => exact seqInv_cancel (hin.seqInv hs) hc
  | cancelRequest ht hc => exact seqInv_cancel (seqInv_transmit hs ht) hc
  | transmit ht => exact seqInv_transmit hs ht
  | enterCycle hin hseq => exact seqInv_enterCycle (hin.seqInv hs) hseq
  | engineExit hin hseq hl hrun =>
    have hs' := hin.seqInv hs
    obtain ⟨-, he, -⟩ := hs'.modeInv
    exact seqInv_engineExit (t := acquire .engine _) hs' (he.mp (by simp [hseq])).2 rfl
      (hs'.txn_none (by simp [hseq])) hrun fun _ h => h
  | graceOver hin =>
    obtain ⟨h₁, h₂, h₃, h₄, hmode⟩ := hin.seqInv hs
    exact ⟨h₁, h₂, h₃, h₄, modeInv.congr hmode .rfl .rfl rfl rfl rfl nofun fun _ h => h⟩
  | startRead k hseq => exact seqInv_startRead hs hseq
  | finishCycle ht hseq => exact seqInv_finishCycle hs ht hseq

/-- Settles O51: by cases on what a step can do. -/
theorem sequencerInvariantKept : Obligations.SequencerInvariantKept := fun _ _ hs h => stepCase_seqInv hs (step_cases h)

end Sys2Proof.Machine

namespace Sys2Proof.Machine

/-! ### R12, R108, R123: values that stay in range -/

theorem fNorm_not_nan (neg : Bool) (m : Nat) (e : Int) : fIsNan (fNorm neg m e) = false := by
  unfold fNorm; split <;> rfl

/-- Rounding a finite value gives a finite value or an infinity. -/
theorem fRound_not_nan (f : Fmt) (neg : Bool) (m : Nat) (e : Int) : fIsNan (fRound f neg m e) = false := by
  have hfinish (m' : Nat) (e' : Int) : fIsNan (if m' = 0 then .fin neg 0 0
      else if f.emax < e' + (Nat.log2 m' : Nat) then .inf neg else fNorm neg m' e') = false := by
    split
    · rfl
    · split
      · rfl
      · exact fNorm_not_nan neg m' e'
  unfold fRound
  split
  · rfl
  · exact hfinish _ _

/-- A product of finite values is no NaN: R105's targets of a finite setpoint are none. -/
theorem fMul_not_nan (f : Fmt) {a b : F} (ha : fIsFinite a = true) (hb : fIsFinite b = true) :
    fIsNan (fMul f a b) = false := by
  cases a with
  | fin n m e =>
    cases b with
    | fin n' m' e' => exact fRound_not_nan _ _ _ _
    | nan | inf => cases hb
  | nan | inf => cases ha

/-- Only an infinity minus an infinity, or a NaN, is a NaN: R109's error of a finite reading is none. -/
theorem fSub_not_nan (f : Fmt) {a b : F} (ha : fIsNan a = false) (hb : fIsFinite b = true) :
    fIsNan (fSub f a b) = false := by
  cases b with
  | nan => cases hb
  | inf n => cases hb
  | fin n m e =>
    cases a with
    | nan => cases ha
    | inf n' => rfl
    | fin n' m' e' =>
      unfold fSub fAdd fNeg
      dsimp only
      split
      · rfl
      · exact fRound_not_nan _ _ _ _

theorem fLe_of_not_fLt {a b : F} (ha : fIsNan a = false) (hb : fIsNan b = false) (h : fLt a b ≠ true) : fLe b a = true := by
  simpa [fLt, ha, hb] using h

/-- R108: a clamped value lies between its bounds. -/
theorem clamp_bounds (x : F) {lo hi : F} (hlo : fIsNan lo = false) (hhi : fIsNan hi = false) (hle : fLe lo hi = true)
    (hlo' : fLe lo lo = true) (hhi' : fLe hi hi = true) : fLe lo (clamp x lo hi) = true ∧ fLe (clamp x lo hi) hi = true := by
  unfold clamp
  split
  · exact ⟨hlo', hle⟩
  · next hx =>
    have hx' : fIsNan x = false := Bool.eq_false_iff.mpr hx
    split
    · exact ⟨hlo', hle⟩
    · next hge =>
      split
      · exact ⟨hle, hhi'⟩
      · next hle' => exact ⟨fLe_of_not_fLt hx' hlo hge, fLe_of_not_fLt hhi hx' hle'⟩

/-- Rounding to an integer does not pass a bound that is one. -/
theorem halfEven_le {m sh b : ℕ} (h : (m : ℚ) / 2 ^ sh ≤ b) : halfEven m sh ≤ b := by
  obtain ⟨hnear, -⟩ := halfEven_spec (m := m) (sh := sh) (.inl rfl) (.inl rfl)
  obtain ⟨hlo, -⟩ := abs_le.mp hnear
  have hlt : (halfEven m sh : ℚ) < (b + 1 : ℕ) := by push_cast; linarith
  exact Nat.lt_succ_iff.mp (by exact_mod_cast hlt)

/-- R123: a value from 0 to a bound is quantised to at most any integer that the bound does not pass. -/
theorem quant_le {x : F} {n : ℕ} {e' : ℤ} {b : ℕ} (h0 : fLe .zero x = true) (hhi : fLe x (.fin false n e') = true)
    (hn : (n : ℚ) * 2 ^ e' ≤ b) : quant x ≤ b := by
  cases x with
  | nan => cases h0
  | inf n =>
    cases n with
    | true => cases h0
    | false => cases hhi
  | fin neg m e =>
    rw [fLe_fin_iff] at h0 hhi
    simp only [fVal_fin, Bool.false_eq_true, if_false, zpow_zero, Nat.cast_zero, one_mul, mul_zero, mul_one] at h0 hhi
    have hb := hhi.trans hn
    have hpos : (0 : ℚ) < 2 ^ e := by positivity
    cases neg with
    | true =>
      have hm : m = 0 := by
        have : (m : ℚ) * 2 ^ e ≤ 0 := by simpa using h0
        have : (m : ℚ) ≤ 0 := by nlinarith
        exact_mod_cast le_antisymm this (Nat.cast_nonneg m)
      simp [quant, hm]
    | false =>
      simp only [Bool.false_eq_true, if_false, one_mul] at hb
      simp only [quant]
      split
      · next he =>
        have : ((m * 2 ^ e.toNat : ℕ) : ℚ) ≤ b := by
          push_cast
          rwa [← zpow_natCast, Int.toNat_of_nonneg he]
        exact_mod_cast this
      · next he =>
        apply halfEven_le
        rwa [← zpow_natCast, Int.toNat_of_nonneg (by omega), zpow_neg, div_inv_eq_mul]

/-! ### R9's defaults as values -/

theorem default_iLim : Params.default.iLim = .fin false 25 2 := by decide +kernel
theorem default_outMax : Params.default.outMax = .fin false 25 2 := by decide +kernel
theorem default_tempScale : Params.default.tempScale = .fin false 5 1 := by decide +kernel
theorem default_stageFrac : fIsFinite Params.default.stageFrac.q0 = true ∧ fIsFinite Params.default.stageFrac.q1 = true ∧
    fIsFinite Params.default.stageFrac.q2 = true ∧ fIsFinite Params.default.stageFrac.q3 = true := by decide +kernel

/-! ### R99: a reading is finite -/

/-- A correctly rounded magnitude below the threshold of overflow is finite, and at most doubled. -/
theorem correctlyRounded.finite {neg : Bool} {v : ℚ} {r : F} (h : correctlyRounded neg v r) (h0 : 0 ≤ v)
    (hv : v < ((2 : ℚ) ^ 25 - 1) * 2 ^ 103) : ∃ (m : ℕ) (e : ℤ), r = .fin neg m e ∧ (m : ℚ) * 2 ^ e ≤ 2 * v := by
  obtain ⟨m, e, hr, -, -, hnear⟩ := h.2 hv
  refine ⟨m, e, hr, ?_⟩
  obtain ⟨hle, -⟩ := hnear 0 0 (by norm_num) (by norm_num)
  rw [Nat.cast_zero, zero_mul, sub_zero, abs_of_nonneg h0] at hle
  have := (abs_le.mp hle).1
  linarith

theorem fOfInt_finite {v : ℤ} (hv : |(v : ℚ)| < 2 ^ 16) :
    ∃ (m : ℕ) (e : ℤ), fOfInt Fmt.binary32 v = .fin (decide (v < 0)) m e ∧ (m : ℚ) * 2 ^ e ≤ 2 ^ 17 := by
  have habs : ((v.natAbs : ℕ) : ℚ) = |(v : ℚ)| := by rw [Nat.cast_natAbs, Int.cast_abs]
  have h := fRound_correctlyRounded (decide (v < 0)) (m := v.natAbs) 0 (.inl rfl)
  rw [zpow_zero, mul_one, habs] at h
  obtain ⟨m, e, hr, hle⟩ := h.finite (abs_nonneg _) (hv.trans (by norm_num))
  exact ⟨m, e, hr, by linarith⟩

theorem temp_finite (o : OpenParams) (raw : Half) : fIsFinite (temp (Params.defaultWith o) raw) = true := by
  have hraw : |(((raw.toNat : ℕ) : ℤ) : ℚ)| < 2 ^ 16 := by
    rw [Int.cast_natCast, Nat.abs_cast]
    exact_mod_cast raw.isLt
  obtain ⟨m, e, hr, hle⟩ := fOfInt_finite hraw
  have htemp : temp (Params.defaultWith o) raw =
      fDiv Fmt.binary32 (.fin (decide (((raw.toNat : ℕ) : ℤ) < 0)) m e) (.fin false 5 1) := by
    rw [← hr, ← default_tempScale]; rfl
  have h := fDiv_correctlyRounded (decide (((raw.toNat : ℕ) : ℤ) < 0)) false m e 1 (m' := 5) (by norm_num)
  rw [abs_div, abs_fVal_fin, abs_fVal_fin] at h
  obtain ⟨m', e', hr', -⟩ := h.finite (by positivity) (by
    rw [div_lt_iff₀ (by norm_num)]
    exact hle.trans_lt (by norm_num))
  rw [htemp, hr']
  rfl

/-! ### R45 items 2 and 3: the numeric invariant -/

/-- What the numeric invariant says of one channel. -/
def numericChan (c : Channel) : Prop :=
  fIsFinite c.kp = true ∧ fIsFinite c.ki = true ∧ fIsFinite c.kd = true ∧ fIsFinite c.sp = true ∧
  c.stageT = targetsOf Params.default c.sp ∧
  fLe (fNeg Params.default.iLim) c.iAcc = true ∧ fLe c.iAcc Params.default.iLim = true ∧
  fIsNan c.prevErr = false ∧ (∀ m, c.lastReading = some m → fIsFinite m = true) ∧ c.dutyOut ≤ 100

theorem numericInv_iff (s : State) :
    numericInv s ↔ (∃ o, s.par = Params.defaultWith o) ∧ ∀ c ∈ s.ch, numericChan c := .rfl

/-- R105: the targets of a finite setpoint are no NaNs. -/
theorem target_not_nan {c : Channel} (hsp : fIsFinite c.sp = true) (hT : c.stageT = targetsOf Params.default c.sp) :
    fIsNan (target c) = false := by
  obtain ⟨h0, h1, h2, h3⟩ := default_stageFrac
  unfold target
  rw [hT]
  generalize c.stage = k
  fin_cases k
  · exact fMul_not_nan _ hsp h0
  · exact fMul_not_nan _ hsp h1
  · exact fMul_not_nan _ hsp h2
  · exact fMul_not_nan _ hsp h3

theorem zero_in_iLim : fLe (fNeg Params.default.iLim) .zero = true ∧ fLe .zero Params.default.iLim = true := by
  rw [default_iLim]; decide

/-- R109: the integral stays within its bounds. -/
theorem integral_bounds (o : OpenParams) (i e : F) :
    fLe (fNeg Params.default.iLim) (integral (Params.defaultWith o) i e) = true ∧
      fLe (integral (Params.defaultWith o) i e) Params.default.iLim = true := by
  have hlim : (Params.defaultWith o).iLim = Params.default.iLim := rfl
  unfold integral
  split
  · exact zero_in_iLim
  · rw [hlim, default_iLim]
    exact clamp_bounds _ rfl rfl (by decide) (by decide) (by decide)

/-- R108, R123: an output is a duty of at most 100. -/
theorem quant_output_le (o : OpenParams) (u : F) : quant (clamp u .zero (Params.defaultWith o).outMax) ≤ 100 := by
  have hmax : (Params.defaultWith o).outMax = .fin false 25 2 := default_outMax
  rw [hmax]
  obtain ⟨h0, hhi⟩ := clamp_bounds u (lo := .zero) (hi := .fin false 25 2) rfl rfl (by decide) (by decide) (by decide)
  exact quant_le h0 hhi (by norm_num)

/-- R109: what PID compute and the quantisation make of a channel. -/
theorem numericChan_compute (o : OpenParams) {m : Option F} {c : Channel} (hc : numericChan c)
    (hm : ∀ x, m = some x → fIsFinite x = true) :
    numericChan { (compute (Params.defaultWith o) m c).1 with dutyOut := quant (compute (Params.defaultWith o) m c).2 } := by
  obtain ⟨hp, hi, hd, hsp, hT, hlo, hhi, herr, hread, -⟩ := hc
  cases m with
  | none => exact ⟨hp, hi, hd, hsp, hT, hlo, hhi, herr, hread, by simp [compute, quant]⟩
  | some x =>
    obtain ⟨hlo', hhi'⟩ := integral_bounds o c.iAcc (fSub (Params.defaultWith o).fmt (target c) x)
    exact ⟨hp, hi, hd, hsp, hT, hlo', hhi', fSub_not_nan _ (target_not_nan hsp hT) (hm x rfl), hread,
      quant_output_le o _⟩

theorem numericChan_cycled (o : OpenParams) (en : Bool) {m : Option F} (now : Nat) {c : Channel} (hc : numericChan c)
    (hm : ∀ x, m = some x → fIsFinite x = true) : numericChan (cycledChan (Params.defaultWith o) en m now c) := by
  obtain ⟨hp, hi, hd, hsp, hT, hlo, hhi, herr, -, hduty⟩ := hc
  cases en with
  | false => exact ⟨hp, hi, hd, hsp, hT, hlo, hhi, herr, hm, Nat.zero_le _⟩
  | true =>
    obtain ⟨k, hold, hadv, -⟩ := advance_spec (Params.defaultWith o) m now { c with lastReading := m }
    have hc' : numericChan (advance (Params.defaultWith o) m now { c with lastReading := m }) :=
      hadv ▸ ⟨hp, hi, hd, hsp, hT, hlo, hhi, herr, hm, hduty⟩
    exact numericChan_compute o hc' hm

theorem numericChan_adjusted (o : OpenParams) {en : Bool} {c c' : Channel} (h : Adjusted (Params.defaultWith o) en c c')
    (hc : numericChan c) : numericChan c' := by
  have ⟨hp, hi, hd, hsp, hT, hlo, hhi, herr, hread, hduty⟩ := hc
  cases h with
  | same => exact hc
  | gains kp ki kd hp hi hd => exact ⟨hp, hi, hd, hsp, hT, hlo, hhi, herr, hread, hduty⟩
  | setpoint x hx => exact ⟨hp, hi, hd, hx, rfl, hlo, hhi, herr, hread, hduty⟩
  | cycled res now =>
    refine numericChan_cycled o en now hc fun x hx => ?_
    cases res with
    | error c => cases hx
    | ok raw => cases hx; exact temp_finite o raw

/-- R113, R115: clearing the PID state keeps a channel's numbers in range. -/
theorem numericChan_cleared {c : Channel} (hc : numericChan c) (k : Fin 4) (hold : Option Nat) {d : Nat} (hd : d ≤ 100) :
    numericChan { c with stage := k, holdSince := hold, iAcc := .zero, prevErr := .zero, dutyOut := d } := by
  obtain ⟨hp, hi, hdg, hsp, hT, -, -, -, hread, -⟩ := hc
  exact ⟨hp, hi, hdg, hsp, hT, zero_in_iLim.1, zero_in_iLim.2, rfl, hread, hd⟩

theorem enableChan_eq (c : Channel) :
    ∃ k, enableChan c = { c with stage := k, holdSince := none, iAcc := .zero, prevErr := .zero } := by
  unfold enableChan snap
  split <;> exact ⟨_, rfl⟩

theorem numericChan_duty {c : Channel} (hc : numericChan c) : c.dutyOut ≤ 100 := by
  obtain ⟨-, -, -, -, -, -, -, -, -, hduty⟩ := hc
  exact hduty

/-- Settles O52: by cases on what a step does to the channels. -/
theorem numericInvariantKept : Obligations.NumericInvariantKept := by
  intro s t hs h
  obtain ⟨⟨o, ho⟩, hch⟩ := (numericInv_iff s).mp hs
  refine (numericInv_iff t).mpr ⟨⟨o, (configurationConstant s t h).1.trans ho⟩, ?_⟩
  cases step_control h with
  | kept _ _ _ _ hadj => exact forall_mem_of_forall₂ hadj (fun _ _ h => numericChan_adjusted o (ho ▸ h)) hch
  | started _ _ _ _ hsame => exact hsame ▸ hch
  | enabled _ _ _ _ hmap =>
    rw [hmap]
    refine List.forall_mem_map.mpr fun c hc => ?_
    obtain ⟨k, hk⟩ := enableChan_eq c
    exact hk ▸ numericChan_cleared (hch c hc) k none (numericChan_duty (hch c hc))
  | disabled _ _ _ _ _ hmap | exited _ _ _ _ _ hmap =>
    rw [hmap]
    exact List.forall_mem_map.mpr fun c hc => numericChan_cleared (hch c hc) c.stage none (Nat.zero_le _)

/-! ### R46, R142: reset -/

theorem resetLegal_iff (p : Params) (n : Nat) (cfg : List ChanCfg) : resetLegal p n cfg = true ↔
    1 ≤ n ∧ cfg.length = n ∧ ∀ c ∈ cfg, p.addrMin ≤ c.addr ∧ c.addr ≤ p.addrMax ∧
      fIsFinite c.kp = true ∧ fIsFinite c.ki = true ∧ fIsFinite c.kd = true ∧ fIsFinite c.sp = true := by
  simp only [resetLegal, Bool.and_eq_true, decide_eq_true_eq, List.all_eq_true, and_assoc]

theorem ofConfig_getElem? (p : Params) (cfg : List ChanCfg) (i : Nat) :
    (State.ofConfig p cfg).ch[i]? = cfg[i]?.map (Channel.ofConfig p i) := List.getElem?_mapIdx

/-- Every channel after reset is built from an entry of the configuration. -/
theorem forall_mem_ofConfig {p : Params} {cfg : List ChanCfg} {P : Channel → Prop}
    (h : ∀ i, ∀ c ∈ cfg, P (Channel.ofConfig p i c)) : ∀ c ∈ (State.ofConfig p cfg).ch, P c := by
  intro c hc
  obtain ⟨i, hi, rfl⟩ := List.mem_mapIdx.mp hc
  exact h i _ (List.getElem_mem hi)

theorem numericInv_ofConfig (o : OpenParams) {n : Nat} {cfg : List ChanCfg}
    (h : resetLegal (Params.defaultWith o) n cfg = true) : numericInv (State.ofConfig (Params.defaultWith o) cfg) := by
  obtain ⟨-, -, hcfg⟩ := (resetLegal_iff _ _ _).mp h
  refine (numericInv_iff _).mpr ⟨⟨o, rfl⟩, forall_mem_ofConfig fun i c hc => ?_⟩
  obtain ⟨-, -, hp, hi, hd, hsp⟩ := hcfg c hc
  exact ⟨hp, hi, hd, hsp, rfl, zero_in_iLim.1, zero_in_iLim.2, rfl, nofun, Nat.zero_le _⟩

theorem controlInv_ofConfig (p : Params) (cfg : List ChanCfg) : controlInv (State.ofConfig p cfg) :=
  ⟨rfl, fun _ => ⟨rfl, forall_mem_ofConfig fun _ _ _ => rfl⟩, forall_mem_ofConfig fun _ _ _ => rfl⟩

theorem seqInv_ofConfig (p : Params) (cfg : List ChanCfg) : seqInv (State.ofConfig p cfg) := by
  refine modeInv.outside ?_ rfl rfl rfl
  simp [modeInv, State.ofConfig, loopRuns]

theorem indexInv_ofConfig (p : Params) (cfg : List ChanCfg) : indexInv (State.ofConfig p cfg) := by
  intro i c hc
  rw [ofConfig_getElem?] at hc
  obtain ⟨_, -, rfl⟩ := Option.map_eq_some_iff.mp hc
  rfl

/-- Settles O53: each invariant from the values of a reset. -/
theorem invariantsAtReset : Obligations.InvariantsAtReset :=
  ⟨fun o _ _ h => numericInv_ofConfig o h,
    fun p cfg => ⟨controlInv_ofConfig p cfg, seqInv_ofConfig p cfg, indexInv_ofConfig p cfg⟩,
    numericInv_ofConfig Config.openParams (n := Config.channelCount) (cfg := Config.channels) (by decide),
    controlInv_ofConfig _ _, seqInv_ofConfig _ _, indexInv_ofConfig _ _⟩

/-- Settles O57: reset refuses what `resetLegal` refuses, and else constructs `State.ofConfig`. -/
theorem resetValues : Obligations.ResetValues := by
  intro p n cfg
  constructor
  · rw [← resetLegal_iff]
    simp [State.construct]
  · intro s hs
    obtain ⟨hlegal, hconf⟩ := Option.ite_none_right_eq_some.mp hs
    obtain rfl := Option.some.inj hconf
    obtain ⟨-, hlen, -⟩ := (resetLegal_iff _ _ _).mp hlegal
    refine ⟨rfl, by simpa [State.chanCount, State.ofConfig] using hlen, rfl, rfl, rfl, rfl, rfl, rfl, rfl, rfl, rfl, rfl, rfl,
      fun i c hc => ?_⟩
    rw [ofConfig_getElem?, hc]
    rfl

end Sys2Proof.Machine

namespace Sys2Proof.Machine

/-! ### R30, R83, R98, R100: frames outside a cycle -/

/-- A frame of a length that no transmitted request awaits is only received. -/
theorem acceptFrame_unawaited {f : List Byte} {s : State}
    (h : ∀ t, s.txn = some t → t.sent = false ∨ t.len ≠ f.length) : acceptFrame f s = { s with rxbuf := s.rxbuf ++ f } := by
  unfold acceptFrame
  split
  · next t ht =>
    refine if_neg fun hawait => ?_
    rcases h t ht with hsent | hlen
    · simp [hsent] at hawait
    · exact hlen hawait.2
  · rfl

theorem acceptFrame_awaited {f : List Byte} {s : State} {t : Txn} (ht : s.txn = some t) (hsent : t.sent = true)
    (hlen : t.len = f.length) : acceptFrame f s = onAnswer t (some f) s := by
  simp [acceptFrame, ht, hsent, hlen]

theorem afterRead_outside {s : State} (h : ∀ k, s.seq ≠ .cycle k) (res : Except Cause Half) : afterRead res s = s := by
  unfold afterRead
  split
  · next k hk => exact absurd hk (h k)
  · rfl

/-- The echo check is what judges the answer to a write. -/
theorem judge_echo_ok {t : Txn} {f : List Byte} (hkind : t.kind = .echo) (h : echo6 f t.req = .ok ()) :
    judge t (some f) = .ok 0 := by
  simp [judge, decodeResponse, hkind, h]

theorem judge_echo_error {t : Txn} {f : List Byte} {c : Cause} (hkind : t.kind = .echo) (h : echo6 f t.req = .error c) :
    judge t (some f) = .error c := by
  simp [judge, decodeResponse, hkind, h]

/-- An answer that the decoder accepts ends a transaction outside a cycle. -/
theorem onAnswer_ok_outside {s : State} {t : Txn} {f : List Byte} {v : Half} (hseq : ∀ k, s.seq ≠ .cycle k)
    (h : judge t (some f) = .ok v) : onAnswer t (some f) s = { s with txn := none, events := s.events ++ [.rx f] } := by
  unfold onAnswer
  rw [h]
  dsimp only
  rw [afterRead_outside (s := closeTxn (addEvent (answerEvent (some f)) s)) hseq]
  simp [closeTxn, addEvent, answerEvent]

theorem onAnswer_retried {s : State} {t : Txn} {f : List Byte} {c : Cause} (h : judge t (some f) = .error c)
    (hmore : t.attempt < t.lim) : onAnswer t (some f) s = retriedState t (.rx f) c s := by
  unfold onAnswer
  rw [h]
  dsimp only
  rw [if_neg hmore.not_ge, recover_eq]
  simp [retriedState, addEvent, answerEvent]

theorem onAnswer_failed_outside {s : State} {t : Txn} {f : List Byte} {c : Cause} (hseq : ∀ k, s.seq ≠ .cycle k)
    (h : judge t (some f) = .error c) (hlast : t.lim ≤ t.attempt) : onAnswer t (some f) s =
      { s with
        rxbuf := []
        txn := none
        events := s.events ++ [.rx f, .reset, .log (.attemptFailed (t.req.headD 0) c t.attempt)] } := by
  unfold onAnswer
  rw [h]
  dsimp only
  rw [if_pos hlast, recover_eq, afterRead_outside (by exact hseq)]
  simp [closeTxn, addEvent, answerEvent]

/-- Settles O25: a frame is accepted if a response of its length is awaited, and the echo check decides how its attempt ends. -/
theorem framesOutsideCycle : Obligations.FramesOutsideCycle := by
  refine fun s => ⟨fun a fn n data crc h => ?_, fun a fn reg data crc h => ?_, fun a fn reg data crc t ht hsent hlen hkind hseq => ?_⟩
  · exact congrArg Host.Outcome.next (acceptFrame_unawaited h)
  · exact congrArg Host.Outcome.next (acceptFrame_unawaited h)
  · have haccept : exec (.mbResp6 a fn reg data crc) s = .next (onAnswer t (some (resp6Bytes a fn reg data crc)) s) :=
      congrArg Host.Outcome.next (acceptFrame_awaited ht hsent hlen)
    rw [haccept]
    exact ⟨fun h => congrArg Host.Outcome.next (onAnswer_ok_outside hseq (judge_echo_ok hkind h)),
      fun _ h hmore => congrArg Host.Outcome.next (onAnswer_retried (judge_echo_error hkind h) hmore),
      fun _ h hlast => congrArg Host.Outcome.next (onAnswer_failed_outside hseq (judge_echo_error hkind h) hlast)⟩

/-! ### R30, R74, R84, R100: a step runs what it fetches -/

theorem nextMove_engine {s : State} (h : s.waiting = [] ∨ s.lock ≠ .free) : nextMove s = fetchEngine s := by
  unfold nextMove
  rcases h with h | h
  · rw [h]
  · split
    · exact if_neg h
    · rfl

/-- At a point where the block takes an input the next move is that input's. -/
theorem nextMove_takesInput {s : State} (h : takesInput s) : nextMove s = fetchInput s := by
  obtain ⟨hwait, hpoint⟩ := h
  rw [nextMove_engine hwait]
  cases ht : s.txn with
  | some t =>
    have hsent : t.sent = true := by simpa [ht] using hpoint
    simp [fetchEngine, ht, hsent]
  | none =>
    cases hseq : s.seq with
    | stopped | wait => simp [fetchEngine, ht, hseq]
    | cycle | finish => simp [ht, hseq] at hpoint

theorem not_cancelled {s : State} (h : s.mode ≠ .background ∨ s.running = true) : cancelled s = false := by
  rcases h with h | h <;> simp [cancelled, h]

theorem fetchFrame_short {s : State} {t : Txn} (h : s.rxbuf.length < t.len) : fetchFrame t s = .goOn s := by
  simp [fetchFrame, takeRx, h.not_ge]

theorem fetchFrame_complete {s : State} {t : Txn} {i : Instr} (h : t.len ≤ s.rxbuf.length)
    (hd : decode (rxPort t.len) (s.rxbuf.take t.len) = .ok i) :
    fetchFrame t s = .run i { s with rxbuf := s.rxbuf.drop t.len } := by
  simp [fetchFrame, takeRx, h, hd]

/-- Settles O44: the move is chosen where the instruction is fetched, and running it is its meaning. -/
theorem stepRunsDecoded : Obligations.StepRunsDecoded := by
  refine fun s => ⟨fun i m rest hpoint hin hd => ?_, fun i t hwait hgo ht hsent hd => ?_,
    fun i t bs rest hpoint ht hin hlen hd => ?_, fun bs rest hpoint hin hshort => ?_⟩
  · have hmove : fetchInput s = .run i { s with inbox := rest } := by simp [fetchInput, hin, fetchMessage, hd]
    rw [step, nextMove_takesInput hpoint, hmove]
    rfl
  · have hmove : fetchEngine s = .run i s := by simp [fetchEngine, ht, hsent, fetchRequest, not_cancelled hgo, hd]
    rw [step, nextMove_engine hwait, hmove]
    rfl
  · have hmove : fetchInput s = .run i { s with inbox := rest, rxbuf := (s.rxbuf ++ bs).drop t.len } := by
      have hframe := fetchFrame_complete (s := { s with inbox := rest, rxbuf := s.rxbuf ++ bs }) hlen hd
      simpa [fetchInput, hin, fetchBus, ht] using hframe
    rw [step, nextMove_takesInput hpoint, hmove]
    rfl
  · have hmove : fetchInput s = .goOn { s with inbox := rest, rxbuf := s.rxbuf ++ bs } := by
      cases ht : s.txn with
      | none => simp [fetchInput, hin, fetchBus, ht]
      | some t =>
        have hframe := fetchFrame_short (s := { s with inbox := rest, rxbuf := s.rxbuf ++ bs }) (hshort t ht)
        simpa [fetchInput, hin, fetchBus, ht] using hframe
    rw [step, nextMove_takesInput hpoint, hmove]
    rfl

end Sys2Proof.Machine

namespace Sys2Proof.Machine

/-! ### R48, R49, R84: the frames that a step transmits -/

/-- The frame that an event transmits, if it does. -/
def txFrame? : Event → Option (List Byte)
  | .tx q => some q
  | _ => none

@[simp] theorem txFrame?_tx (q : List Byte) : txFrame? (.tx q) = some q := rfl
@[simp] theorem txFrame?_reset : txFrame? .reset = none := rfl
@[simp] theorem txFrame?_duty (i d : Nat) : txFrame? (.duty i d) = none := rfl
@[simp] theorem txFrame?_ready (b : Bool) : txFrame? (.ready b) = none := rfl
@[simp] theorem txFrame?_log (l : LogRecord) : txFrame? (.log l) = none := rfl
@[simp] theorem txFrame?_answerEvent (r : Option (List Byte)) : txFrame? (answerEvent r) = none := by cases r <;> rfl

/-- The frames that an event list transmits, in order. -/
def txFrames (es : List Event) : List (List Byte) := es.filterMap txFrame?

@[simp] theorem txFrames_nil : txFrames [] = [] := rfl

@[simp] theorem txFrames_cons (e : Event) (es : List Event) : txFrames (e :: es) = (txFrame? e).toList ++ txFrames es := by
  cases h : txFrame? e <;> simp [txFrames, h]

@[simp] theorem txFrames_append (es es' : List Event) : txFrames (es ++ es') = txFrames es ++ txFrames es' :=
  List.filterMap_append

theorem mem_txFrames {q : List Byte} {es : List Event} (h : Event.tx q ∈ es) : q ∈ txFrames es :=
  List.mem_filterMap.mpr ⟨_, h, rfl⟩

/-! #### Operations that transmit nothing -/

@[simp] theorem setDuty_txFrames (i d : Nat) (s : State) : txFrames (setDuty i d s).events = txFrames s.events := by
  obtain ⟨fails, v, h, rfl | rfl, -⟩ := setDuty_spec i d s <;> simp [h]

@[simp] theorem setReady_txFrames (b : Bool) (s : State) : txFrames (setReady b s).events = txFrames s.events := by
  obtain ⟨fails, v, h, rfl | rfl, -⟩ := setReady_spec b s <;> simp [h]

/-- A loop over the channels transmits nothing if no round does. -/
theorem forChans_txFrames {body : Nat → State → State} (h : ∀ i s, txFrames (body i s).events = txFrames s.events)
    (s : State) : txFrames (forChans body s).events = txFrames s.events :=
  forChans_keeps (fun s => txFrames s.events) body h s

@[simp] theorem engineExit_txFrames (s : State) : txFrames (engineExit s).events = txFrames s.events := by
  simp [engineExit, forChans_txFrames, exitChan]

@[simp] theorem cancel_txFrames (s : State) : txFrames (cancel s).events = txFrames s.events := by simp [cancel]

@[simp] theorem finishCycle_txFrames (q : Seq) (s : State) : txFrames (finishCycle q s).events = txFrames s.events := by
  simp [finishCycle]

@[simp] theorem storeReading_txFrames (k : Nat) (r : Except ResultCode F) (s : State) :
    txFrames (storeReading k r s).events = txFrames s.events := by
  cases r <;> simp [storeReading]

@[simp] theorem actuate_txFrames (k : Nat) (s : State) : txFrames (actuate k s).events = txFrames s.events := by
  unfold actuate; split <;> simp

@[simp] theorem chanDone_txFrames (k : Nat) (en : Bool) (r : Except ResultCode F) (s : State) :
    txFrames (chanDone k en r s).events = txFrames s.events := by
  cases en <;> simp [chanDone]

@[simp] theorem startRead_events (k : Nat) (s : State) : (startRead k s).events = s.events := by
  unfold startRead; split <;> rfl

@[simp] theorem startBody_events (s : State) : (startBody s).events = s.events := by
  unfold startBody
  split
  · dsimp only; split <;> simp
  · rfl

@[simp] theorem enableBody_txFrames (b : Byte) (s : State) : txFrames (enableBody b s).events = txFrames s.events := by
  unfold enableBody
  split
  · split
    · rfl
    · split
      · simp [forChans_txFrames, disableChan]
      · rfl
  · rfl

theorem afterRead_txFrames (res : Except Cause Half) (s : State) : txFrames (afterRead res s).events = txFrames s.events := by
  unfold afterRead; split <;> simp

theorem onAnswer_txFrames (t : Txn) (r : Option (List Byte)) (s : State) :
    txFrames (onAnswer t r s).events = txFrames s.events := by
  unfold onAnswer
  split
  · simp [afterRead_txFrames]
  · dsimp only
    split <;> simp [afterRead_txFrames]

theorem acceptFrame_txFrames (f : List Byte) (s : State) : txFrames (acceptFrame f s).events = txFrames s.events := by
  unfold acceptFrame
  split
  · split
    · exact onAnswer_txFrames _ _ s
    · rfl
  · rfl

/-! #### Operations that transmit -/

/-- Whichever transaction goes on, the frame emitted is the request asked for. -/
theorem emitRequest_events (t : Txn) (s : State) : (emitRequest t s).events = s.events ++ [.tx t.req] := by
  unfold emitRequest
  split
  · split
    · next heq => rw [transmit_events, heq]
    · rfl
  · rfl

theorem attemptOnce_txFrames (t : Txn) (s : State) :
    txFrames (attemptOnce t s).2.events = txFrames s.events ++ [t.req] := by
  simp [attemptOnce]

/-- `t` comes after `s`, and the frames transmitted in between are requests of the block. -/
structure Emits (s t : State) : Prop where
  par : t.par = s.par
  frames : ∃ qs, txFrames t.events = txFrames s.events ++ qs ∧ ∀ q ∈ qs, isRequest s.par q

theorem Emits.silent {s t : State} (hpar : t.par = s.par) (h : txFrames t.events = txFrames s.events) : Emits s t :=
  ⟨hpar, [], by simpa using h, by simp⟩

theorem Emits.refl (s : State) : Emits s s := .silent rfl rfl

theorem Emits.request {s t : State} {q : List Byte} (hpar : t.par = s.par)
    (h : txFrames t.events = txFrames s.events ++ [q]) (hq : isRequest s.par q) : Emits s t :=
  ⟨hpar, [q], h, List.forall_mem_singleton.mpr hq⟩

theorem Emits.trans {s t u : State} (h : Emits s t) (h' : Emits t u) : Emits s u := by
  obtain ⟨hpar, qs, hqs, hreq⟩ := h
  obtain ⟨hpar', qs', hqs', hreq'⟩ := h'
  rw [hpar] at hreq'
  exact ⟨hpar'.trans hpar, qs ++ qs', by rw [hqs', hqs, List.append_assoc],
    List.forall_mem_append.mpr ⟨hreq, hreq'⟩⟩

/-- Every attempt of a transaction transmits its request. -/
theorem runAttempts_emits (more : Nat) {t : Txn} {s : State} (hq : isRequest s.par t.req) :
    Emits s (runAttempts more t s).2 := by
  have hone : Emits s (attemptOnce t s).2 := .request (by simp) (attemptOnce_txFrames t s) hq
  induction more generalizing t s with
  | zero =>
    unfold runAttempts
    split <;> next heq => rw [heq] at hone; exact hone.trans (.silent (by simp) (by simp))
  | succ more ih =>
    unfold runAttempts
    split
    · next heq => rw [heq] at hone; exact hone.trans (.silent rfl rfl)
    · next c s' heq =>
      rw [heq] at hone
      have hfail : Emits s (recover t c s') := hone.trans (.silent (by simp) (by simp))
      have hq' : isRequest (recover t c s').par t.req := hfail.par ▸ hq
      exact hfail.trans (ih hq' (.request (by simp) (attemptOnce_txFrames _ _) hq'))

theorem readTemperature_emits (a : Byte) (s : State) : Emits s (readTemperature a s).2 :=
  runAttempts_emits _ (.inl ⟨a, rfl⟩)

theorem discoverAddress_emits (s : State) : Emits s (discoverAddress s).2 := by
  have h : Emits s (runTxn (req3 s.par.bcast s.par.regAddr) 7 s.par.attDisc .disc s).2 :=
    runAttempts_emits _ (.inr (.inl ⟨_, rfl⟩))
  unfold discoverAddress
  dsimp only
  split <;> exact h

theorem assignAddress_emits (w : Half) (s : State) : Emits s (assignAddress w s).2 := by
  have hdisc := discoverAddress_emits s
  unfold assignAddress
  split
  · next heq => rw [heq] at hdisc; exact hdisc
  · next a s₁ heq =>
    rw [heq] at hdisc
    have hwrite : Emits s₁ (runTxn (req6 a w) 8 s₁.par.attWrite .echo s₁).2 :=
      runAttempts_emits _ (.inr (.inr ⟨a, w, rfl⟩))
    dsimp only
    split <;> exact hdisc.trans hwrite

theorem callerChan_emits (en : Bool) (k : Nat) (s : State) : Emits s (callerChan en k s) := by
  unfold callerChan
  split
  · exact .refl s
  · next c _ =>
    have henter : Emits s { s with seq := .cycle k } := .silent rfl rfl
    exact (henter.trans (readTemperature_emits c.addr _)).trans (.silent (by simp) (by simp))

theorem callerCycle_emits (s : State) : Emits s (callerCycle s) := by
  have hloop : Emits s (forChans (callerChan (s.loop == .runEn)) (acquire .host s)) :=
    forChans_induction (P := Emits s) (fun i t ht => ht.trans (callerChan_emits _ i t)) (.silent rfl rfl)
  exact hloop.trans (.silent (by simp [callerCycle]) (by simp [callerCycle]))

/-! #### Every step -/

/-- The request of a transaction is the temperature read of a channel. -/
theorem seqInv.isRequest {s : State} {t : Txn} (hs : seqInv s) (ht : s.txn = some t) : isRequest s.par t.req := by
  obtain ⟨-, -, -, htxn, -⟩ := hs
  obtain ⟨_, c, -, -, hreq, -⟩ := htxn t ht
  exact .inl ⟨c.addr, hreq⟩

/-- What an instruction transmits are requests; a function-3 request that is a frame of its own has to be due. -/
theorem execCase_emits {s t : State} {i : Instr} (hs : seqInv s)
    (hdue : i.port = .tx → ∃ q, s.txn = some q ∧ decode .tx q.req = .ok i) (h : ExecCase s i t) : Emits s t := by
  cases h with
  | discover => exact (discoverAddress_emits s).trans (.silent rfl rfl)
  | assign w => exact (assignAddress_emits w s).trans (.silent rfl rfl)
  | readTemp b => exact (readTemperature_emits b s).trans (.silent rfl rfl)
  | stepCycle => exact (callerCycle_emits s).trans (.silent rfl rfl)
  | mbReq3 a r =>
    obtain ⟨q, hq, hd⟩ := hdue rfl
    obtain ⟨_, _, heq, hreq⟩ := seqInv_due hs hq hd
    cases heq
    refine .request (emitRequest_sameConfig _ s).1 (q := req3 a r) ?_ (hreq ▸ hs.isRequest hq)
    simp [emitRequest_events, request3Txn_req]
  | mbReq6 a w =>
    refine .request (emitRequest_sameConfig _ s).1 (q := req6 a w) ?_ (.inr (.inr ⟨a, w, rfl⟩))
    simp [emitRequest_events, newTxn]
  | mbResp3 | mbResp6 => exact .silent (acceptFrame_sameConfig _ s).1 (acceptFrame_txFrames _ s)
  | start => exact .silent (startBody_sameConfig _).1 (by simp)
  | enable b => exact .silent (enableBody_sameConfig b _).1 (by simp)
  | stopCaller => exact .silent (callerExit_sameConfig _).1 (by simp [callerExit])
  | refused | blocked | setGains | setSetpoint | status | stopCallerBlocked | stopAnswered | stopWaits |
    stepCycleBlocked | crcInit | crcFeed | crcRead => exact .silent rfl rfl

theorem Intake.emits {s s' : State} (h : Intake s s') : Emits s s' := by
  obtain ⟨_, _, _, rfl, _⟩ := h; exact .silent rfl rfl

theorem stepCase_emits {s t : State} (hs : seqInv s) (h : StepCase s t) : Emits s t := by
  cases h with
  | exec hin hi h =>
    exact hin.emits.trans (execCase_emits (hin.seqInv hs) (fun hport => hin.txn ▸ issued_tx hs hi hport) h)
  | idle hin => exact hin.emits
  | refused e hin => exact hin.emits.trans (.silent rfl rfl)
  | accept f hin => exact hin.emits.trans (.silent (acceptFrame_sameConfig f _).1 (acceptFrame_txFrames f _))
  | timeout hin => exact hin.emits.trans (.silent (onAnswer_sameConfig _ none _).1 (onAnswer_txFrames _ none _))
  | cancel hin => exact hin.emits.trans (.silent (cancel_sameConfig _).1 (cancel_txFrames _))
  | enterCycle hin => exact hin.emits.trans (.silent rfl rfl)
  | engineExit hin => exact hin.emits.trans (.silent (by simp) (by simp))
  | graceOver hin => exact hin.emits.trans (.silent rfl rfl)
  | callerExit => exact .silent (callerExit_sameConfig _).1 (by simp [Machine.callerExit])
  | @cancelRequest q hq =>
    exact .request (cancel_sameConfig (Machine.transmit q s)).1 (by simp) (hs.isRequest hq)
  | transmit hq => exact .request rfl (by simp) (hs.isRequest hq)
  | startRead k => exact .silent (startRead_sameConfig k s).1 (by simp)
  | finishCycle => exact .silent (by simp) (by simp)

/-- Settles O13: every place that transmits does so with a request, by cases on what a step can do; the request of a transaction is one by
the sequencer invariant. -/
theorem onlyRequestsEmitted : Obligations.OnlyRequestsEmitted := by
  intro s t hs h
  obtain ⟨es, hes⟩ := (step_appends h).1
  obtain ⟨-, qs, hqs, hreq⟩ := stepCase_emits hs (step_cases h)
  rw [← hes, txFrames_append, List.append_cancel_left_eq] at hqs
  exact ⟨es, hes.symm, fun q hq => hreq q (hqs ▸ mem_txFrames hq)⟩

end Sys2Proof.Machine

namespace Sys2Proof.Machine

/-! ### R64, R116: refusals of the bus commands and of STEP -/

theorem busAllowed_eq_false {s : State} (h : ¬ ((s.loop = .idle ∨ s.loop = .terminated) ∧ s.seq = .stopped)) :
    busAllowed s = false := by
  simpa [busAllowed] using h

theorem legalAddr_eq_true {p : Params} {b : Byte} (hmin : p.addrMin ≤ b) (hmax : b ≤ p.addrMax) :
    legalAddr p b = true := by
  simp [legalAddr, hmin, hmax]

/-- Settles O20: each command tests its guard first, and a failed guard is answered by `raise`. -/
theorem wrongStateRefused : Obligations.WrongStateRefused := by
  refine fun s => ⟨fun h => ?_, fun h => ?_⟩
  · have hbus : ¬ busAllowed s = true := Bool.eq_false_iff.mp (busAllowed_eq_false h)
    exact ⟨if_neg hbus, fun _ => if_neg hbus, fun b hmin hmax => (if_pos (legalAddr_eq_true hmin hmax)).trans (if_neg hbus)⟩
  · refine if_neg fun ⟨hmode, hruns, hrun⟩ => ?_
    rcases h with h | ⟨hdis, hen⟩ | h
    · exact h hmode
    · exact ((loopRuns_iff s).mp hruns).elim hdis hen
    · simp [h] at hrun

end Sys2Proof.Machine

namespace Sys2Proof.Machine

/-! ### R61, R67, R132: gains, setpoints and targets while the lock is held -/

/-- What the configuration commands write of a channel (R117, R118). -/
def Channel.settings (c : Channel) : F × F × F × F × Quad := (c.kp, c.ki, c.kd, c.sp, c.stageT)

/-- Rewriting an entry without changing its settings keeps the settings. -/
theorem map_settings_modify (l : List Channel) (i : Nat) {g : Channel → Channel} (h : ∀ c, (g c).settings = c.settings) :
    (l.modify i g).map Channel.settings = l.map Channel.settings := by
  apply List.ext_getElem?
  intro k
  rw [List.getElem?_map, List.getElem?_map, List.getElem?_modify]
  cases l[k]? with
  | none => rfl
  | some c => by_cases hik : i = k <;> simp [hik, h]

theorem cycledChan_settings (p : Params) (en : Bool) (m : Option F) (now : Nat) (c : Channel) :
    (cycledChan p en m now c).settings = c.settings := by
  cases en with
  | false => rfl
  | true =>
    obtain ⟨_, _, _, _, _, h, -⟩ := enabledChan_spec p m now c
    simp only [cycledChan, if_true, h]
    rfl

/-- `t` has the gains, setpoints and stage targets of `s`. -/
def SameSettings (s t : State) : Prop := t.ch.map Channel.settings = s.ch.map Channel.settings

theorem SameSettings.of_ch {s t : State} (h : t.ch = s.ch) : SameSettings s t := by rw [SameSettings, h]

/-- What is done in `s'` is done in `s` where the two have the same channels. -/
theorem SameSettings.from_ch {s s' t : State} (h : SameSettings s' t) (hch : s'.ch = s.ch) : SameSettings s t := by
  rw [SameSettings, h, hch]

theorem engineExit_sameSettings (s : State) : SameSettings s (engineExit s) := by
  rw [SameSettings, engineExit_ch, List.map_map]
  rfl

theorem cancel_sameSettings (s : State) : SameSettings s (cancel s) := by
  rw [SameSettings, cancel, answerStop_ch]
  exact engineExit_sameSettings (closeTxn s)

theorem afterRead_sameSettings (res : Except Cause Half) (s : State) : SameSettings s (afterRead res s) := by
  unfold afterRead
  split
  · next k _ =>
    obtain ⟨now, h⟩ := chanDone_ch k (s.loop == .runEn) (readResult s.par res) s
    rw [SameSettings, enterChan_ch, h]
    exact map_settings_modify _ _ fun c => cycledChan_settings _ _ _ _ c
  · exact .of_ch rfl

theorem onAnswer_sameSettings (t : Txn) (r : Option (List Byte)) (s : State) : SameSettings s (onAnswer t r s) := by
  unfold onAnswer
  split
  · exact (afterRead_sameSettings _ _).from_ch rfl
  · dsimp only
    split
    · exact (afterRead_sameSettings _ _).from_ch (by simp)
    · exact .of_ch (by simp)

theorem acceptFrame_sameSettings (f : List Byte) (s : State) : SameSettings s (acceptFrame f s) := by
  unfold acceptFrame
  split
  · split
    · exact onAnswer_sameSettings _ _ s
    · exact .of_ch rfl
  · exact .of_ch rfl

theorem emitRequest_ch (t : Txn) (s : State) : (emitRequest t s).ch = s.ch := by
  unfold emitRequest
  split
  · split <;> rfl
  · rfl

/-- While the lock is held no instruction that writes a gain, a setpoint or a target gets it. -/
theorem execCase_sameSettings {s t : State} {i : Instr} (hl : s.lock ≠ .free) (h : ExecCase s i t) : SameSettings s t := by
  cases h with
  | start hfree | enable _ hfree | setGains _ _ _ _ hfree | setSetpoint _ _ hfree | status _ hfree
  | stopCaller _ _ _ hfree | stepCycle _ _ _ hfree => exact absurd hfree hl
  | discover | assign | readTemp => exact .of_ch (by simp)
  | mbReq3 | mbReq6 => exact .of_ch (emitRequest_ch _ s)
  | mbResp3 | mbResp6 => exact acceptFrame_sameSettings _ s
  | refused | blocked | stopCallerBlocked | stopAnswered | stopWaits | stepCycleBlocked | crcInit | crcFeed |
    crcRead => exact .of_ch rfl

theorem Intake.lock {s s' : State} (h : Intake s s') : s'.lock = s.lock := by obtain ⟨_, _, _, rfl, _⟩ := h; rfl

theorem stepCase_sameSettings {s t : State} (hl : s.lock ≠ .free) (h : StepCase s t) : SameSettings s t := by
  cases h with
  | exec hin _ h => exact (execCase_sameSettings (hin.lock ▸ hl) h).from_ch hin.ch
  | @callerExit rest => exact engineExit_sameSettings (acquire .host { s with waiting := rest })
  | accept f hin => exact (acceptFrame_sameSettings f _).from_ch hin.ch
  | timeout hin => exact (onAnswer_sameSettings _ none _).from_ch hin.ch
  | cancel hin => exact (cancel_sameSettings _).from_ch hin.ch
  | @cancelRequest q => exact cancel_sameSettings (Machine.transmit q s)
  | enterCycle hin _ hfree | engineExit hin _ hfree => exact absurd (hin.lock ▸ hfree) hl
  | idle hin | refused e hin | graceOver hin => exact .of_ch hin.ch
  | startRead k => exact .of_ch (by unfold Machine.startRead; split <;> rfl)
  | transmit => exact .of_ch rfl
  | finishCycle => exact .of_ch (by simp)

/-- Settles O59: the commands that write gains, setpoints and targets need the lock, which the engine holds; its own moves rewrite
other fields of a channel. -/
theorem cycleSeesOneConfiguration : Obligations.CycleSeesOneConfiguration := fun _ _ _ hl h =>
  stepCase_sameSettings (by simp [hl]) (step_cases h)

end Sys2Proof.Machine

namespace Sys2Proof.Machine

/-! ### R59, R63: commands that wait for the lock -/

/-- What a command that takes the lock does with the lock held (R112, R113, R117-R119). -/
def lockedBody : Instr → State → State
  | .start => startBody
  | .enable b => enableBody b
  | .setGains ch kp ki kd => gainsBody ch kp ki kd
  | .setSetpoint ch x => setpointBody ch x
  | .status => fun s => respondOk (statusData s) s
  | _ => id

/-- With its operands legal, a command that takes the lock is its body under the lock. -/
theorem exec_eq_withLock {i : Instr} {s : State} (hi : takesLock i = true) (hwf : i.wellFormed s.par s.chanCount = true) :
    exec i s = withLock i (lockedBody i) s := by
  cases i with
  | start | status => rfl
  | enable b => exact if_pos hwf
  | setGains ch kp ki kd => exact if_pos (by simpa [Instr.wellFormed, and_assoc] using hwf)
  | setSetpoint ch x => exact if_pos (by simpa [Instr.wellFormed] using hwf)
  | _ => cases hi

/-! #### Nothing that runs under the lock reads or writes the waiting work -/

/-- `s` with `w` as the work that waits for the lock. -/
def State.withWaiting (w : List Pending) (s : State) : State := { s with waiting := w }

section Waiting

variable (w : List Pending) (s : State)

@[simp] theorem withWaiting_loop : (s.withWaiting w).loop = s.loop := rfl
@[simp] theorem withWaiting_loopRuns : loopRuns (s.withWaiting w) = loopRuns s := rfl
@[simp] theorem withWaiting_running : (s.withWaiting w).running = s.running := rfl

theorem drawAct_withWaiting : drawAct (s.withWaiting w) = ((drawAct s).1, (drawAct s).2.withWaiting w) := by
  unfold drawAct
  rw [show (s.withWaiting w).env = s.env from rfl]
  split <;> rfl

theorem drawSpawn_withWaiting : drawSpawn (s.withWaiting w) = ((drawSpawn s).1, (drawSpawn s).2.withWaiting w) := by
  unfold drawSpawn
  rw [show (s.withWaiting w).env = s.env from rfl]
  split <;> rfl

theorem setDuty_withWaiting (i d : Nat) : setDuty i d (s.withWaiting w) = (setDuty i d s).withWaiting w := by
  unfold setDuty
  rw [show addEvent (.duty i d) (s.withWaiting w) = (addEvent (.duty i d) s).withWaiting w from rfl, drawAct_withWaiting]
  dsimp only
  split <;> rfl

theorem setReady_withWaiting (b : Bool) : setReady b (s.withWaiting w) = (setReady b s).withWaiting w := by
  unfold setReady
  rw [show addEvent (.ready b) (s.withWaiting w) = (addEvent (.ready b) s).withWaiting w from rfl, drawAct_withWaiting]
  dsimp only
  split <;> rfl

theorem disableChan_withWaiting (i : Nat) : disableChan i (s.withWaiting w) = (disableChan i s).withWaiting w :=
  setDuty_withWaiting w (modChan i clearPid s) i 0

theorem forChans_disableChan_withWaiting :
    forChans disableChan (s.withWaiting w) = (forChans disableChan s).withWaiting w := by
  unfold forChans
  rw [show (s.withWaiting w).chanCount = s.chanCount from rfl]
  generalize List.range s.chanCount = l
  induction l generalizing s with
  | nil => rfl
  | cons i l ih => rw [List.foldl_cons, disableChan_withWaiting, ih]; rfl

theorem startBody_withWaiting : startBody (s.withWaiting w) = (startBody s).withWaiting w := by
  unfold startBody
  rw [show ({ enterLoop .runDis (s.withWaiting w) with running := true } : State) =
    State.withWaiting w { enterLoop .runDis s with running := true } from rfl, drawSpawn_withWaiting, withWaiting_loop]
  dsimp only
  split
  · split <;> rfl
  · rfl

theorem enableBody_withWaiting (b : Byte) : enableBody b (s.withWaiting w) = (enableBody b s).withWaiting w := by
  unfold enableBody
  rw [forChans_disableChan_withWaiting, setReady_withWaiting, withWaiting_loopRuns, withWaiting_running, withWaiting_loop]
  split
  · split
    · rfl
    · split <;> rfl
  · rfl

theorem lockedBody_withWaiting {i : Instr} (hi : takesLock i = true) :
    lockedBody i (s.withWaiting w) = (lockedBody i s).withWaiting w := by
  cases i with
  | start => exact startBody_withWaiting w s
  | enable b => exact enableBody_withWaiting w s b
  | setGains | setSetpoint | status => rfl
  | _ => cases hi

end Waiting

/-! #### One command after the other -/

/-- The state after a command that got the lock. -/
def served (i : Instr) (s : State) : State := release (lockedBody i (acquire .host s))

theorem exec_free {i : Instr} {s : State} (hi : takesLock i = true) (hwf : i.wellFormed s.par s.chanCount = true)
    (hl : s.lock = .free) : exec i s = .next (served i s) :=
  (exec_eq_withLock hi hwf).trans (withLock_free i _ s hl)

theorem served_withWaiting {i : Instr} (hi : takesLock i = true) (w : List Pending) (s : State) :
    served i (s.withWaiting w) = (served i s).withWaiting w :=
  congrArg release (lockedBody_withWaiting w (acquire .host s) hi)

/-- A command keeps the configuration that the operands of those after it are checked against. -/
theorem served_wellFormed {i j : Instr} {s : State} (hi : takesLock i = true) (hwf : i.wellFormed s.par s.chanCount = true)
    (hl : s.lock = .free) : j.wellFormed (served i s).par (served i s).chanCount = j.wellFormed s.par s.chanCount := by
  obtain ⟨hpar, hch⟩ := exec_keepsConfig i s _ (exec_free hi hwf hl)
  rw [hpar, State.chanCount, length_eq_of_ident hch]
  rfl

/-- With the lock free the first of the waiting commands is the next step. -/
theorem step_waiting (i : Instr) {s : State} (rest : List Pending) (hl : s.lock = .free) :
    step (s.withWaiting (.cmd i :: rest)) = exec i (s.withWaiting rest) := by
  simp [step, nextMove, hl, runMove, State.withWaiting]

theorem stepN_waiting (is : List Instr) {s : State} (hl : s.lock = .free)
    (his : ∀ i ∈ is, takesLock i = true ∧ i.wellFormed s.par s.chanCount = true) :
    stepN is.length (s.withWaiting (is.map .cmd)) = execAll is (s.withWaiting []) := by
  induction is generalizing s with
  | nil => rfl
  | cons i is ih =>
    obtain ⟨⟨hi, hwf⟩, his⟩ := List.forall_mem_cons.mp his
    have hstep : step (s.withWaiting ((i :: is).map .cmd)) = .next ((served i s).withWaiting (is.map .cmd)) := by
      rw [List.map_cons, step_waiting i _ hl, ← served_withWaiting hi]
      exact exec_free (s := s.withWaiting (is.map .cmd)) hi hwf hl
    have hexec : exec i (s.withWaiting []) = .next ((served i s).withWaiting []) := by
      rw [← served_withWaiting hi]
      exact exec_free (s := s.withWaiting []) hi hwf hl
    have htail : ∀ j ∈ is, takesLock j = true ∧ j.wellFormed (served i s).par (served i s).chanCount = true := by
      simpa only [served_wellFormed hi hwf hl] using his
    simp only [List.length_cons, stepN, execAll, hstep, hexec]
    exact ih rfl htail

/-- Settles O40: a held lock makes a command wait; with the lock free, each step serves the first of the waiting commands, by induction on
them. -/
theorem waitingCommandsServed : Obligations.WaitingCommandsServed := by
  refine ⟨fun i s hi hwf hl => (exec_eq_withLock hi hwf).trans (withLock_held i _ s hl), fun s is hl hw his => ?_⟩
  have hs : s = s.withWaiting (is.map .cmd) := by rw [← hw]; rfl
  exact (congrArg (stepN is.length) hs).trans (stepN_waiting is hl his)

end Sys2Proof.Machine

namespace Sys2Proof.Machine

/-! ### R53, R71: binary32 patterns -/

/-- The one form of a value drops the trailing zero bits of its mantissa, and raises its exponent by as many. -/
theorem fNorm_strip (neg : Bool) {m : ℕ} (e : ℤ) (h0 : m ≠ 0) :
    ∃ m₁ j : ℕ, Odd m₁ ∧ m = m₁ * 2 ^ j ∧ fNorm neg m e = .fin neg m₁ (e + j) := by
  obtain ⟨m₁, e₁, hnorm, hodd, -, he, hval⟩ := fNorm_spec neg e h0
  obtain ⟨j, rfl⟩ := Int.le.dest he
  refine ⟨m₁, j, hodd, ?_, hnorm⟩
  rw [zpow_add₀ two_ne_zero, zpow_natCast, mul_left_comm, mul_comm ((2 : ℚ) ^ e)] at hval
  exact_mod_cast (mul_right_cancel₀ (by positivity) hval).symm

/-- A value in its one form is left as it is. -/
theorem fNorm_odd (neg : Bool) {m : ℕ} (e : ℤ) (h : Odd m) : fNorm neg m e = .fin neg m e := by
  obtain ⟨m₁, j, -, hm, hnorm⟩ := fNorm_strip neg e h.pos.ne'
  obtain rfl : j = 0 := by
    by_contra hj
    exact Nat.not_even_iff_odd.mpr h (hm ▸ (Nat.even_pow.mpr ⟨even_two, hj⟩).mul_left m₁)
  simpa using hnorm.trans (by simp [hm])

/-- A value of binary32 is its own rounding. -/
theorem fRound_odd (neg : Bool) {m : ℕ} {e : ℤ} (h : Odd m) (hbits : m.log2 ≤ 23) (hmin : -149 ≤ e)
    (hmax : e + (m.log2 : ℕ) ≤ 127) : fRound Fmt.binary32 neg m e = .fin neg m e := by
  have hq : max (e + (m.log2 + 1 : ℕ) - 24) (-149) ≤ e := by omega
  rw [fRound_eq neg e h.pos.ne' _ rfl]
  simp only [if_pos hq, if_neg h.pos.ne', if_neg hmax.not_gt, fNorm_odd neg e h]

/-- The pattern of a value of binary32: of a normal one, or of a subnormal one. -/
theorem fPattern?_odd (neg : Bool) {m : ℕ} {e : ℤ} (h : Odd m) (hbits : m.log2 ≤ 23) (hmin : -149 ≤ e)
    (hmax : e + (m.log2 : ℕ) ≤ 127) : fPattern? (.fin neg m e) =
      some (if -126 ≤ e + (m.log2 : ℕ) then
          packPattern neg (e + (m.log2 : ℕ) + 127).toNat (m * 2 ^ (23 - m.log2) - 2 ^ 23)
        else packPattern neg 0 (m * 2 ^ (e + 149).toNat)) := by
  simp only [fPattern?, if_neg h.pos.ne', fNorm_odd neg e h, fRound_odd neg h hbits hmin hmax, if_true]
  split <;> rfl

theorem log2_mul_two_pow {m : ℕ} (h0 : m ≠ 0) (j : ℕ) : (m * 2 ^ j).log2 = m.log2 + j := by
  rw [Nat.log2_eq_iff (by positivity), Nat.pow_add, show m.log2 + j + 1 = m.log2 + 1 + j by omega, Nat.pow_add]
  exact ⟨Nat.mul_le_mul_right _ (Nat.log2_self_le h0), Nat.mul_lt_mul_of_pos_right Nat.lt_log2_self (by positivity)⟩

/-! #### The fields of a pattern -/

/-- The mantissa that the exponent field `ex` and the fraction `frac` of a finite pattern stand for. -/
def significand (ex frac : ℕ) : ℕ := if ex = 0 then frac else frac + 2 ^ 23

/-- The exponent of the last bit that the exponent field `ex` of a finite pattern stands for. -/
def lastExp (ex : ℕ) : ℤ := if ex = 0 then -149 else ex - 150

/-- A finite pattern by its fields. -/
theorem fOfPattern_finite {x : Pattern} (h : fIsFinite (fOfPattern x) = true) :
    ∃ neg ex frac, ex < 255 ∧ frac < 2 ^ 23 ∧ x = packPattern neg ex frac ∧
      fOfPattern x = fNorm neg (significand ex frac) (lastExp ex) := by
  have hneg : x.getLsbD 31 = decide (x.toNat / 2 ^ 31 % 2 = 1) := by
    rw [BitVec.getLsbD, Nat.testBit_eq_decide_div_mod_eq]
  have hex : ((x >>> 23) &&& 0xFF).toNat = x.toNat / 2 ^ 23 % 2 ^ 8 := by
    rw [BitVec.toNat_and, BitVec.toNat_ushiftRight, Nat.shiftRight_eq_div_pow]
    exact Nat.and_two_pow_sub_one_eq_mod _ 8
  have hfrac : (x &&& 0x7FFFFF).toNat = x.toNat % 2 ^ 23 := by
    rw [BitVec.toNat_and]
    exact Nat.and_two_pow_sub_one_eq_mod _ 23
  have hx := x.isLt
  simp only [fOfPattern, hex, hfrac] at h ⊢
  have hne : x.toNat / 2 ^ 23 % 2 ^ 8 ≠ 255 := by
    intro h255
    rw [if_pos h255] at h
    split at h <;> cases h
  refine ⟨x.getLsbD 31, x.toNat / 2 ^ 23 % 2 ^ 8, x.toNat % 2 ^ 23, by omega, by omega, ?_, ?_⟩
  · apply BitVec.eq_of_toNat_eq
    rw [packPattern, BitVec.toNat_ofNat, hneg]
    by_cases hs : x.toNat / 2 ^ 31 % 2 = 1
    · rw [if_pos (decide_eq_true hs)]; omega
    · rw [if_neg (by simpa using hs)]; omega
  · rw [if_neg hne]
    unfold significand lastExp
    split <;> rfl

/-- The leading bit of a finite pattern's value lies in the range of binary32, and tells a normal value from a subnormal one. -/
theorem significand_log2 {ex frac : ℕ} (hex : ex < 255) (hfrac : frac < 2 ^ 23) (h0 : significand ex frac ≠ 0) :
    (significand ex frac).log2 ≤ 23 ∧ -149 ≤ lastExp ex ∧ lastExp ex + ((significand ex frac).log2 : ℕ) ≤ 127 ∧
      if ex = 0 then (significand ex frac).log2 < 23 else (significand ex frac).log2 = 23 := by
  by_cases hsub : ex = 0
  · have hlog : (significand ex frac).log2 < 23 := (Nat.log2_lt h0).mpr (by simpa [significand, hsub] using hfrac)
    simp only [lastExp, hsub, if_true] at hlog ⊢
    omega
  · have hlog : (significand ex frac).log2 = 23 := by
      rw [Nat.log2_eq_iff h0, significand, if_neg hsub]
      omega
    simp only [lastExp, hlog, if_neg hsub, and_true]
    omega

/-- The value of a finite pattern, in its one form, is a value of binary32 and has that pattern. -/
theorem fNorm_significand (neg : Bool) {ex frac : ℕ} (hex : ex < 255) (hfrac : frac < 2 ^ 23) :
    fConv Fmt.binary32 (fNorm neg (significand ex frac) (lastExp ex)) = fNorm neg (significand ex frac) (lastExp ex) ∧
      fPattern? (fNorm neg (significand ex frac) (lastExp ex)) = some (packPattern neg ex frac) := by
  by_cases h0 : significand ex frac = 0
  · have hzero : ex = 0 ∧ frac = 0 := by
      unfold significand at h0
      split at h0 <;> omega
    obtain ⟨rfl, rfl⟩ := hzero
    exact ⟨rfl, rfl⟩
  · obtain ⟨hbits, hmin, hmax, hlead⟩ := significand_log2 hex hfrac h0
    obtain ⟨m, j, hodd, hm, hnorm⟩ := fNorm_strip neg (lastExp ex) h0
    have hlog : (significand ex frac).log2 = m.log2 + j := by rw [hm, log2_mul_two_pow hodd.pos.ne']
    rw [hlog] at hbits hmax hlead
    have hbits' : m.log2 ≤ 23 := by omega
    have hmin' : -149 ≤ lastExp ex + j := by omega
    have hmax' : lastExp ex + j + (m.log2 : ℕ) ≤ 127 := by omega
    rw [hnorm]
    refine ⟨fRound_odd neg hodd hbits' hmin' hmax', (fPattern?_odd neg hodd hbits' hmin' hmax').trans (congrArg some ?_)⟩
    by_cases hsub : ex = 0
    · subst hsub
      simp only [lastExp, significand, if_true] at hlead hm ⊢
      rw [if_neg (by omega), show ((-149 : ℤ) + j + 149).toNat = j by omega, ← hm]
    · simp only [lastExp, significand, if_neg hsub] at hlead hm ⊢
      rw [if_pos (by omega), show ((ex : ℤ) - 150 + j + (m.log2 : ℕ) + 127).toNat = ex by omega,
        show 23 - m.log2 = j by omega, ← hm, Nat.add_sub_cancel]

/-- Settles O6: a finite pattern is its fields, its value has the bits that binary32 keeps, and the fields are read off that value again. -/
theorem floatOperandRoundTrip : Obligations.FloatOperandRoundTrip := by
  intro o x h
  obtain ⟨neg, ex, frac, hex, hfrac, hx, hval⟩ := fOfPattern_finite h
  obtain ⟨hconv, hpat⟩ := fNorm_significand neg hex hfrac
  rw [← hval] at hconv hpat
  have hop : operandF (Params.defaultWith o) x = fOfPattern x := hconv
  exact ⟨hop, by rw [hop, hpat, hx]⟩

end Sys2Proof.Machine

namespace Sys2Proof.Machine

/-! ### R11, R53, R71: byte order of the operands -/

theorem be32_bytes (x : Pattern) :
    be32 (x.extractLsb' 24 8) (x.extractLsb' 16 8) (x.extractLsb' 8 8) (x.extractLsb' 0 8) = x := by
  apply BitVec.eq_of_getLsbD_eq
  intro i hi
  simp only [be32, BitVec.getLsbD_or, BitVec.getLsbD_shiftLeft, BitVec.getLsbD_setWidth,
    BitVec.truncate_eq_setWidth, BitVec.getLsbD_extractLsb']
  grind

theorem be32_eq_append (a b c d : Byte) : be32 a b c d = a ++ b ++ c ++ d := by
  apply BitVec.eq_of_getLsbD_eq
  intro i hi
  simp only [be32, BitVec.getLsbD_or, BitVec.getLsbD_shiftLeft, BitVec.getLsbD_setWidth,
    BitVec.truncate_eq_setWidth, BitVec.getLsbD_append]
  grind

@[simp] theorem bytes32_be32 (a b c d : Byte) : bytes32 (be32 a b c d) = [a, b, c, d] := by
  rw [be32_eq_append, bytes32]
  simp only [List.cons.injEq, and_true]
  refine ⟨?_, ?_, ?_, ?_⟩
  all_goals
    apply BitVec.eq_of_getLsbD_eq
    intro i hi
    simp only [BitVec.getLsbD_extractLsb', BitVec.getLsbD_append]
    grind

/-- R90: a string that passes the check is its payload with that payload's own trailer. -/
theorem eq_withCrc_of_crcOk {s : List Byte} {cl ch : Byte} (h : crcOk (s ++ [cl, ch]) = true) :
    withCrc s = s ++ [cl, ch] := by
  have hcrc : crc16 s = be16 ch cl := by simpa [crcOk] using h
  rw [withCrc, hcrc, lo_be16, hi_be16]

/-! ### R70-R72, R80-R83: decoding what is encoded -/

theorem decode_setGains (ch : Byte) (kp ki kd : Pattern) :
    decode .host (encode (.setGains ch kp ki kd)) = .ok (.setGains ch kp ki kd) := by
  conv_rhs => rw [← be32_bytes kp, ← be32_bytes ki, ← be32_bytes kd]
  rfl

theorem decode_setSetpoint (ch : Byte) (x : Pattern) :
    decode .host (encode (.setSetpoint ch x)) = .ok (.setSetpoint ch x) := by
  conv_rhs => rw [← be32_bytes x]
  rfl

theorem decode_assign (w : Half) : decode .host (encode (.assign w)) = .ok (.assign w) := by
  conv_rhs => rw [← be16_hi_lo w]
  rfl

/-- A write request is told from a read by its function code. -/
theorem decode_req6 (a : Byte) (w : Half) : decode .tx (req6 a w) = .ok (.mbReq6 a w) := by
  have hdec : ∀ h l cl ch : Byte, crcOk [a, 0x06, 0x00, 0x02, h, l, cl, ch] = true →
      decodeRequest [a, 0x06, 0x00, 0x02, h, l, cl, ch] = .ok (.mbReq6 a (be16 h l)) := by
    intro h l cl ch hcrc
    simp only [decodeRequest, hcrc]
    simp
  have h := hdec (hi w) (lo w) _ _ (crcOk_withCrc [a, 0x06, 0x00, 0x02, hi w, lo w])
  rwa [be16_hi_lo] at h

theorem decode_resp3Bytes (a fn n : Byte) (data crc : Half) :
    decode .rx3 (resp3Bytes a fn n data crc) = .ok (.mbResp3 a fn n data crc) := by
  simp [decode, decodeResp3, resp3Bytes]

theorem decode_resp6Bytes (a fn : Byte) (reg data crc : Half) :
    decode .rx6 (resp6Bytes a fn reg data crc) = .ok (.mbResp6 a fn reg data crc) := by
  simp [decode, decodeResp6, resp6Bytes]

/-- Settles O1: by cases on the instruction; where operands have several bytes, their bytes put together again are the operand. -/
theorem decodeEncodeRoundTrip : Obligations.DecodeEncodeRoundTrip := by
  intro i
  cases i with
  | start | stop | enable | stepCycle | status | discover | readTemp | crcInit | crcFeed | crcRead => rfl
  | setGains ch kp ki kd => exact decode_setGains ch kp ki kd
  | setSetpoint ch x => exact decode_setSetpoint ch x
  | assign w => exact decode_assign w
  | mbReq3 a r => exact decode_req3 a r
  | mbReq6 a w => exact decode_req6 a w
  | mbResp3 a fn n data crc => exact decode_resp3Bytes a fn n data crc
  | mbResp6 a fn reg data crc => exact decode_resp6Bytes a fn reg data crc

/-! ### R70-R74, R80-R84: encoding what is decoded -/

/-- What the opcode table gives is encoded by the opcode and the operand bytes it came from. The cases are the table's: each opcode, then
each number of operand bytes. -/
theorem encode_assemble {op : Byte} {args : List Byte} {i : Instr} (h : assemble op args = some i) :
    encode i = op :: args := by
  have hop : ∀ k : Byte, op.toNat = k.toNat → op = k := fun _ => BitVec.eq_of_toNat_eq
  unfold assemble at h
  generalize op.toNat = n at h hop
  rcases n with _ | _ | _ | _ | _ | _ | _ | _ | _ | _ | _ | _ | _ | _ | _ | _ | _ | _ | _ | n
  all_goals
    rcases args with _ | ⟨_, _ | ⟨_, _ | ⟨_, _ | ⟨_, _ | ⟨_, _ | ⟨_, _ | ⟨_, _ | ⟨_, _ | ⟨_, _ | ⟨_, _ | ⟨_, _ | ⟨_, _ | ⟨_,
      _ | ⟨_, _⟩⟩⟩⟩⟩⟩⟩⟩⟩⟩⟩⟩⟩⟩ <;> cases h
  all_goals
    simp only [encode, bytes32_be32, hi_be16, lo_be16, List.cons_append, List.nil_append]
    exact congrArg (· :: _) (hop _ rfl).symm

theorem encode_decodeHost {m : List Byte} {i : Instr} (h : decode .host m = .ok i) : encode i = m := by
  obtain ⟨_, _, rfl, ha⟩ := decodeHost_assemble h
  exact encode_assemble ha

/-- The check makes the trailer of a request the one that the encoder computes. -/
theorem encode_decodeRequest {f : List Byte} {i : Instr} (h : decodeRequest f = .ok i) : i.port = .tx ∧ encode i = f := by
  unfold decodeRequest at h
  split at h
  · next a fn b2 b3 b4 b5 cl ch =>
    have htrailer (hcrc : crcOk [a, fn, b2, b3, b4, b5, cl, ch] = true) :
        withCrc [a, fn, b2, b3, b4, b5] = [a, fn, b2, b3, b4, b5, cl, ch] :=
      eq_withCrc_of_crcOk (s := [a, fn, b2, b3, b4, b5]) hcrc
    split at h
    · next hread =>
      simp only [Bool.and_eq_true, beq_iff_eq] at hread
      obtain ⟨⟨⟨hcrc, rfl⟩, rfl⟩, rfl⟩ := hread
      cases h
      exact ⟨rfl, by simpa [encode, req3] using htrailer hcrc⟩
    · split at h
      · next hwrite =>
        simp only [Bool.and_eq_true, beq_iff_eq] at hwrite
        obtain ⟨⟨⟨hcrc, rfl⟩, rfl⟩, rfl⟩ := hwrite
        cases h
        exact ⟨rfl, by simpa [encode, req6] using htrailer hcrc⟩
      · cases h
  · cases h

theorem encode_decodeResp3 {f : List Byte} {i : Instr} (h : decodeResp3 f = .ok i) : i.port = .rx3 ∧ encode i = f := by
  unfold decodeResp3 at h
  split at h <;> cases h
  exact ⟨rfl, by simp [encode, resp3Bytes]⟩

theorem encode_decodeResp6 {f : List Byte} {i : Instr} (h : decodeResp6 f = .ok i) : i.port = .rx6 ∧ encode i = f := by
  unfold decodeResp6 at h
  split at h <;> cases h
  exact ⟨rfl, by simp [encode, resp6Bytes]⟩

/-- Settles O2: by cases on the interface, each decoder undone by the encoder. -/
theorem decodedBytesReencode : Obligations.DecodedBytesReencode := by
  intro p bs i h
  cases p with
  | host => exact ⟨decodeHost_port h, encode_decodeHost h⟩
  | tx => exact encode_decodeRequest h
  | rx3 => exact encode_decodeResp3 h
  | rx6 => exact encode_decodeResp6 h

theorem req3_broadcast_reg2 : req3 0xFF 0x0002 = [0xFF, 0x03, 0x00, 0x02, 0x00, 0x01, 0x30, 0x14] := by decide +kernel

theorem req6_slave3_data5 : req6 0x03 0x0005 = [0x03, 0x06, 0x00, 0x02, 0x00, 0x05, 0xE9, 0xEB] := by decide +kernel

/-- Settles O3: each word is the encoding of its instruction, for the requests with their CRCs computed. -/
theorem specWordsDecode : Obligations.SpecWordsDecode := by
  have h := decodeEncodeRoundTrip
  exact ⟨h (.setGains 0 0x40000000 0x3F000000 0x3F800000), h (.assign 0x0005), h (.enable 1), h (.crcFeed 0x01),
    req3_broadcast_reg2 ▸ h (.mbReq3 0xFF 0x0002), req6_slave3_data5 ▸ h (.mbReq6 0x03 0x0005),
    h (.mbResp3 0x01 0x03 0x02 0x0708 0xB2BB), h (.mbResp6 0x03 0x06 0x0002 0x0005 0xEBE9)⟩

end Sys2Proof.Machine

namespace Sys2Proof.Machine

/-! ### R73, R74: messages that are answered with an error -/

/-- A reserved opcode has no format. -/
theorem formatLength_reserved {op : Byte} (h : reservedOpcode op) : formatLength op = none := by
  have hrange : op.toNat = 0 ∨ (0x0B ≤ op.toNat ∧ op.toNat ≤ 0x0F) ∨ 0x13 ≤ op.toNat := by
    unfold reservedOpcode at h
    bv_omega
  unfold formatLength
  split
  case h_14 => rfl
  all_goals omega

theorem decode_reserved {op : Byte} (args : List Byte) (h : reservedOpcode op) :
    decode .host (op :: args) = .error .reservedOpcode := by
  simp [decode, decodeHost, formatLength_reserved h]

/-- The table's opcodes with the lengths of their messages (R70, R72). -/
def opcodeLengths : List (Byte × Nat) :=
  [(0x01, 1), (0x02, 1), (0x03, 2), (0x04, 1), (0x05, 14), (0x06, 6), (0x07, 1), (0x08, 1), (0x09, 3), (0x0A, 2), (0x10, 1),
    (0x11, 2), (0x12, 1)]

theorem formatLength_of_mem {op : Byte} {n : Nat} (h : (op, n) ∈ opcodeLengths) : formatLength op = some n := by
  have htable : ∀ x ∈ opcodeLengths, formatLength x.1 = some x.2 := by decide
  exact htable (op, n) h

/-- A command's message has the length of its opcode's format. -/
theorem formatLength_encode {i : Instr} {op : Byte} {args : List Byte} (hport : i.port = .host) (h : encode i = op :: args) :
    formatLength op = some (op :: args).length := by
  cases i with
  | mbReq3 | mbReq6 | mbResp3 | mbResp6 => cases hport
  | _ => cases h; rfl

theorem decode_wrongLength {op : Byte} {args : List Byte} {n : Nat} (hop : formatLength op = some n)
    (hlen : (op :: args).length ≠ n) : decode .host (op :: args) = .error .wrongLength := by
  have hnone : assemble op args = none := by
    rw [Option.eq_none_iff_forall_ne_some]
    intro i hi
    obtain ⟨hport, -, -⟩ := assemble_cases hi
    have hformat := formatLength_encode hport (encode_assemble hi)
    exact hlen (Option.some.inj (hformat.symm.trans hop))
  simp [decode, decodeHost, hop, hnone]

/-- A command with a reserved operand value is refused before anything else is looked at. -/
theorem exec_illFormed {i : Instr} {s : State} (hport : i.port = .host) (hwf : i.wellFormed s.par s.chanCount = false) :
    exec i s = .next (raise .badOperand s) := by
  cases i with
  | enable b => exact if_neg (Bool.eq_false_iff.mp hwf)
  | setGains ch kp ki kd => exact if_neg fun h => Bool.eq_false_iff.mp hwf (by simpa [Instr.wellFormed, and_assoc] using h)
  | setSetpoint ch x => exact if_neg fun h => Bool.eq_false_iff.mp hwf (by simpa [Instr.wellFormed] using h)
  | readTemp b => exact if_neg (Bool.eq_false_iff.mp hwf)
  | mbReq3 | mbReq6 | mbResp3 | mbResp6 => cases hport
  | _ => cases hwf

section Message

variable {s : State} {m : List Byte} {rest : List Input}

/-- A message that is no command is answered by its error. -/
theorem step_message_error {e : DecodeError} (hpoint : takesInput s) (hin : s.inbox = .host m :: rest)
    (hd : decode .host m = .error e) : step s = .next (refuseMessage e { s with inbox := rest }) := by
  have hmove : fetchInput s = .goOn (refuseMessage e { s with inbox := rest }) := by simp [fetchInput, hin, fetchMessage, hd]
  rw [step, nextMove_takesInput hpoint, hmove]
  rfl

theorem step_message_ok {i : Instr} (hpoint : takesInput s) (hin : s.inbox = .host m :: rest)
    (hd : decode .host m = .ok i) : step s = exec i { s with inbox := rest } := by
  obtain ⟨hmessage, -⟩ := stepRunsDecoded s
  exact hmessage i m rest hpoint hin hd

end Message

/-- A message of a host command decodes to it. -/
theorem decode_host_encode {i : Instr} (hport : i.port = .host) : decode .host (encode i) = .ok i :=
  hport ▸ decodeEncodeRoundTrip i

/-- Settles O4: the decoder's clauses in their order, then the command's own check of its operands. -/
theorem hostMessageDecoding : Obligations.HostMessageDecoding := by
  refine fun s m rest hpoint hin => ⟨?_, ?_, ?_, ?_, ?_⟩
  · rintro rfl
    exact step_message_error hpoint hin rfl
  · rintro op args rfl hres
    exact step_message_error hpoint hin (decode_reserved args hres)
  · rintro op args n rfl hop hlen
    exact step_message_error hpoint hin (decode_wrongLength (formatLength_of_mem hop) hlen)
  · rintro i hport rfl hwf
    exact (step_message_ok hpoint hin (decode_host_encode hport)).trans (exec_illFormed hport hwf)
  · rintro i hport rfl -
    exact step_message_ok hpoint hin (decode_host_encode hport)

/-- Settles O5: a reserved opcode does not decode, and each kind of reserved operand makes its command ill-formed. -/
theorem reservedValuesRefused : Obligations.ReservedValuesRefused := by
  refine fun s => ⟨fun op args rest hpoint hin hres => ?_, fun b h0 h1 => ?_, fun ch kp ki kd h => ?_, fun ch x h => ?_, fun b h => ?_⟩
  · exact step_message_error hpoint hin (decode_reserved args hres)
  · exact exec_illFormed rfl (by simpa [Instr.wellFormed, legalFlag] using And.intro h0 h1)
  · refine exec_illFormed rfl ?_
    rcases h with h | h | h | h <;> simp [Instr.wellFormed, legalChan, legalF, h]
  · refine exec_illFormed rfl ?_
    rcases h with h | h <;> simp [Instr.wellFormed, legalChan, legalF, h]
  · refine exec_illFormed rfl ?_
    rcases h with h | h <;> simp [Instr.wellFormed, legalAddr, BitVec.not_le.mpr h]

/-! ### R78, R88, R91-R93: the expansion of CRC16 -/

/-- Fed bytes go through the accumulator in their order, each answered OK; then the commands after them run. -/
theorem execAll_crcFeed (bs : List Byte) (is : List Instr) (s : State) :
    execAll (bs.map .crcFeed ++ is) s = execAll is { s with
      crcHost := bs.foldl crcByte s.crcHost
      replies := s.replies ++ List.replicate bs.length [0x00] } := by
  induction bs generalizing s with
  | nil => simp
  | cons b bs ih =>
    have hfeed : execAll ((b :: bs).map .crcFeed ++ is) s =
        execAll (bs.map .crcFeed ++ is) (respondOk [] { s with crcHost := crcByte s.crcHost b }) := rfl
    rw [hfeed, ih]
    simp [respondOk, codeByte, List.replicate_succ]

/-- Settles O9: the accumulator starts from the seed, is fed by induction on the bytes, and is read at the end. -/
theorem pseudoCommandComputesCrc : Obligations.PseudoCommandComputesCrc := by
  intro bs s
  have hinit : execAll (expand (.crc16 bs)) s =
      execAll (bs.map .crcFeed ++ [.crcRead]) (respondOk [] { s with crcHost := Config.crcSeed }) := rfl
  rw [hinit, execAll_crcFeed]
  simp [execAll, exec, execCrcRead, respondOk, codeByte, crc16, List.replicate_succ]

/-! ### R75, R119: STATUS -/

/-- Pieces of one length `n` put after each other are found again at the multiples of `n`. -/
theorem take_drop_flatMap {α β : Type} {f : α → List β} {n : Nat} (hf : ∀ a, (f a).length = n) (l : List α) (i : Nat) {a : α}
    (h : l[i]? = some a) : ((l.flatMap f).drop (n * i)).take n = f a := by
  induction l generalizing i with
  | nil => cases h
  | cons x xs ih =>
    cases i with
    | zero => cases h; exact List.take_left' (hf _)
    | succ i =>
      rw [List.flatMap_cons, Nat.mul_succ, Nat.add_comm, ← List.drop_drop, List.drop_left' (hf x)]
      exact ih i h

theorem statusRecord_length (c : Channel) : (statusRecord c).length = 7 := by
  unfold statusRecord
  cases c.lastReading <;> rfl

theorem statusData_length (s : State) : (statusData s).length = 5 + 7 * s.chanCount := by
  simp only [statusData, State.chanCount, List.length_append, List.length_flatMap, statusRecord_length, List.map_const', List.sum_replicate]
  simp [Nat.mul_comm]

theorem exec_status {s : State} (hl : s.lock = .free) :
    exec .status s = .next { s with replies := s.replies ++ [0x00 :: statusData s] } := by
  refine (withLock_free _ _ s hl).trans ?_
  cases s
  cases hl
  rfl

/-- Settles O39: five bytes of the loop after the result code, then a record of seven bytes for each channel. -/
theorem statusReport : Obligations.StatusReport := by
  refine fun s hl => ⟨0x00 :: statusData s, exec_status hl, ?_, rfl, fun i c hc => ?_⟩
  · rw [List.length_cons, statusData_length, Nat.add_comm]
  · rw [← List.drop_drop]
    exact take_drop_flatMap statusRecord_length s.ch i hc

/-! ### R80, R81, R100: request frames -/

/-- The request of the open transaction is its next attempt. -/
theorem emitRequest_due {q t : Txn} {s : State} (ht : s.txn = some t) (hreq : t.req = q.req) :
    emitRequest q s = transmit t s := by
  simp [emitRequest, ht, hreq]

theorem emitRequest_opens {q : Txn} {s : State} (h : ∀ t, s.txn = some t → t.req ≠ q.req) :
    emitRequest q s = transmit q s := by
  unfold emitRequest
  split
  · next t ht => exact if_neg (h t ht)
  · rfl

/-- The state at the response wait, the request being `r` (R100). -/
theorem transmit_eq {t : Txn} {r : List Byte} (s : State) (hr : t.req = r) :
    transmit t s = { s with rxbuf := [], txn := some { t with sent := true }, events := s.events ++ [.tx r] } := by
  subst hr; rfl

/-- Settles O21: a request frame transmits, for the open transaction if it is that one's. -/
theorem requestEmitted : Obligations.RequestEmitted := by
  refine fun a s => ⟨fun r t ht hreq => ?_, fun r h => ?_, fun w t ht hreq => ?_, fun w h => ?_⟩
  all_goals refine congrArg Host.Outcome.next ?_
  · exact (emitRequest_due ht (hreq.trans (request3Txn_req _ a r).symm)).trans (transmit_eq s hreq)
  · have hr := request3Txn_req s.par a r
    exact (emitRequest_opens (by rwa [hr])).trans (transmit_eq s hr)
  · exact (emitRequest_due ht hreq).trans (transmit_eq s hreq)
  · exact (emitRequest_opens h).trans (transmit_eq s rfl)

end Sys2Proof.Machine

namespace Sys2Proof.Machine

/-! ### R69, R114: the account of the messages -/

/-- Whatever leaves the answers, the waiting work, STOP's wait and the inbox alone leaves the account alone. -/
theorem messageLedger_congr {s t : State} (hreplies : t.replies = s.replies) (hwaiting : t.waiting = s.waiting)
    (hstop : t.stopWait = s.stopWait) (hinbox : t.inbox = s.inbox) : messageLedger t = messageLedger s := by
  simp only [messageLedger, hreplies, hwaiting, hstop, hinbox]

/-! #### Answers and places to wait -/

theorem messageLedger_answered (r : List Byte) (s : State) :
    messageLedger { s with replies := s.replies ++ [r] } = messageLedger s + 1 := by
  simp only [messageLedger, List.length_append, List.length_singleton]
  omega

theorem messageLedger_respondOk (d : List Byte) (s : State) : messageLedger (respondOk d s) = messageLedger s + 1 :=
  messageLedger_answered _ s

theorem messageLedger_raise (e : ResultCode) (s : State) : messageLedger (raise e s) = messageLedger s + 1 :=
  messageLedger_answered _ s

theorem messageLedger_blocked (w : Pending) (s : State) :
    messageLedger { s with waiting := s.waiting ++ [w] } = messageLedger s + 1 := by
  simp only [messageLedger, List.length_append, List.length_singleton]
  omega

theorem messageLedger_unblocked {w : Pending} {rest : List Pending} {s : State} (h : s.waiting = w :: rest) :
    messageLedger { s with waiting := rest } + 1 = messageLedger s := by
  simp only [messageLedger, h, List.length_cons]
  omega

theorem messageLedger_stopWaits {s : State} (h : s.stopWait = false) :
    messageLedger { s with stopWait := true } = messageLedger s + 1 := by
  simp only [messageLedger, h, Bool.false_eq_true, if_true, if_false]
  omega

theorem messageLedger_stopEnds {s : State} (h : s.stopWait = true) :
    messageLedger { s with stopWait := false } + 1 = messageLedger s := by
  simp only [messageLedger, h, Bool.false_eq_true, if_true, if_false]
  omega

theorem messageLedger_message {m : List Byte} {rest : List Input} {s : State} (h : s.inbox = .host m :: rest) :
    messageLedger { s with inbox := rest } + 1 = messageLedger s := by
  simp only [messageLedger, h, List.filter_cons, if_true, List.length_cons]
  omega

/-- Inputs other than messages are no part of the account. -/
theorem messageLedger_noMessage {x : Input} {rest : List Input} {s : State} (h : s.inbox = x :: rest)
    (hx : ∀ m, x ≠ .host m) : messageLedger { s with inbox := rest } = messageLedger s := by
  cases x with
  | host m => exact absurd rfl (hx m)
  | _ => simp [messageLedger, h]

/-! #### The engine -/

theorem messageLedger_answerStop (s : State) : messageLedger (answerStop s) = messageLedger s := by
  unfold answerStop
  split
  · next h => exact (messageLedger_respondOk _ _).trans (messageLedger_stopEnds h)
  · rfl

theorem messageLedger_graceExpired (s : State) : messageLedger (graceExpired s) = messageLedger s := by
  unfold graceExpired
  split
  · next h => exact (messageLedger_raise _ _).trans (messageLedger_stopEnds h)
  · rfl

theorem messageLedger_engineExit (s : State) : messageLedger (engineExit s) = messageLedger s :=
  messageLedger_congr (by simp) (by simp) (by simp) (by simp)

theorem messageLedger_cancel (s : State) : messageLedger (cancel s) = messageLedger s :=
  (messageLedger_answerStop _).trans (messageLedger_engineExit _)

theorem messageLedger_finishCycle (q : Seq) (s : State) : messageLedger (finishCycle q s) = messageLedger s :=
  messageLedger_congr (by simp) (by simp) (by simp) (by simp)

theorem messageLedger_startRead (k : Nat) (s : State) : messageLedger (startRead k s) = messageLedger s := by
  unfold startRead; split <;> rfl

theorem messageLedger_afterRead (res : Except Cause Half) (s : State) : messageLedger (afterRead res s) = messageLedger s := by
  unfold afterRead
  split
  · exact messageLedger_congr (by simp) (by simp) (by simp) (by simp)
  · rfl

theorem messageLedger_onAnswer (t : Txn) (r : Option (List Byte)) (s : State) :
    messageLedger (onAnswer t r s) = messageLedger s := by
  unfold onAnswer
  split
  · exact (messageLedger_afterRead _ _).trans (messageLedger_congr (by simp) (by simp) (by simp) (by simp))
  · dsimp only
    split
    · exact (messageLedger_afterRead _ _).trans (messageLedger_congr (by simp) (by simp) (by simp) (by simp))
    · exact messageLedger_congr (by simp) (by simp) (by simp) (by simp)

theorem messageLedger_acceptFrame (f : List Byte) (s : State) : messageLedger (acceptFrame f s) = messageLedger s := by
  unfold acceptFrame
  split
  · split
    · exact messageLedger_onAnswer _ _ s
    · rfl
  · rfl

theorem messageLedger_emitRequest (t : Txn) (s : State) : messageLedger (emitRequest t s) = messageLedger s := by
  unfold emitRequest
  split
  · split <;> rfl
  · rfl

theorem messageLedger_engineTop (s : State) : messageLedger (engineTop s) = messageLedger s := by
  unfold engineTop
  split
  · split
    · rfl
    · exact (messageLedger_answerStop _).trans (messageLedger_engineExit _)
  · rfl

theorem messageLedger_enginePollWait (s : State) : messageLedger (enginePollWait s) = messageLedger s := by
  unfold enginePollWait
  split
  · exact (messageLedger_answerStop _).trans (messageLedger_engineExit _)
  · rfl

theorem messageLedger_waitTimeout (s : State) : messageLedger (waitTimeout s) = messageLedger s := by
  unfold waitTimeout
  split
  · rfl
  · split
    · exact messageLedger_cancel s
    · exact messageLedger_onAnswer _ none s

theorem messageLedger_pollRunning (s : State) : messageLedger (pollRunning s) = messageLedger s := by
  unfold pollRunning
  split
  · split
    · exact messageLedger_cancel s
    · rfl
  · exact messageLedger_enginePollWait s
  · rfl

/-! #### The commands -/

/-- The outcome of an instruction in `s` has `n` messages more in its account than `s`, if it is a state. -/
def Accounts (n : Nat) (s : State) (o : Host.Outcome State Fault Refusal) : Prop :=
  ∀ t, o = .next t → messageLedger t = messageLedger s + n

theorem accounts_next {n : Nat} {s t : State} (h : messageLedger t = messageLedger s + n) : Accounts n s (.next t) := by
  rintro _ ⟨⟩; exact h

theorem messageLedger_startBody (s : State) : messageLedger (startBody s) = messageLedger s + 1 := by
  unfold startBody
  split
  · refine (messageLedger_respondOk _ _).trans (congrArg (· + 1) ?_)
    split <;> exact messageLedger_congr (by simp) (by simp) (by simp) (by simp)
  · exact messageLedger_raise _ s

theorem messageLedger_enableBody (b : Byte) (s : State) : messageLedger (enableBody b s) = messageLedger s + 1 := by
  unfold enableBody
  split
  · refine (messageLedger_respondOk _ _).trans (congrArg (· + 1) ?_)
    split
    · rfl
    · split
      · exact messageLedger_congr (by simp [forChans_keeps State.replies]) (by simp [forChans_keeps State.waiting])
          (by simp [forChans_keeps State.stopWait]) (by simp [forChans_keeps State.inbox])
      · rfl
  · exact messageLedger_raise _ s

theorem messageLedger_callerExit (s : State) : messageLedger (callerExit s) = messageLedger s + 1 :=
  (messageLedger_respondOk _ _).trans (congrArg (· + 1) (messageLedger_engineExit (acquire .host s)))

/-- A command that takes the lock is answered, or waits. -/
theorem withLock_accounts (i : Instr) {body : State → State} (hbody : ∀ s, messageLedger (body s) = messageLedger s + 1)
    (s : State) : Accounts 1 s (withLock i body s) := by
  unfold withLock
  split <;> apply accounts_next
  · exact hbody (acquire .host s)
  · exact messageLedger_blocked _ s

/-- The answer of a refused command. -/
theorem refused_accounts (e : ResultCode) (s : State) : Accounts 1 s (.next (raise e s)) :=
  accounts_next (messageLedger_raise e s)

theorem execStop_accounts {s : State} (hstop : s.stopWait = true → s.running = false) : Accounts 1 s (execStop s) := by
  unfold execStop
  split
  · next hrun =>
    have hnot : s.stopWait = false := Bool.eq_false_iff.mpr fun h => by simpa [hrun.2] using hstop h
    split
    · split <;> apply accounts_next
      · exact messageLedger_callerExit _
      · exact messageLedger_blocked .callerExit { s with running := false }
    · split <;> apply accounts_next
      · exact messageLedger_respondOk _ _
      · exact messageLedger_stopWaits (s := { s with running := false }) hnot
  · exact refused_accounts _ s

theorem execEnable_accounts (b : Byte) (s : State) : Accounts 1 s (execEnable b s) := by
  unfold execEnable
  split
  · exact withLock_accounts _ (messageLedger_enableBody b) s
  · exact refused_accounts _ s

theorem execStepCycle_accounts (s : State) : Accounts 1 s (execStepCycle s) := by
  unfold execStepCycle
  split
  · split <;> apply accounts_next
    · have hcycle : messageLedger (callerCycle s) = messageLedger s :=
        messageLedger_congr (by simp) (by simp) (by simp) (by simp)
      rw [messageLedger_respondOk, hcycle]
    · exact messageLedger_blocked _ s
  · exact refused_accounts _ s

theorem execSetGains_accounts (ch : Byte) (kp ki kd : Pattern) (s : State) : Accounts 1 s (execSetGains ch kp ki kd s) := by
  unfold execSetGains
  split
  · exact withLock_accounts _ (fun t => messageLedger_respondOk _ (modChan ch.toNat _ t)) s
  · exact refused_accounts _ s

theorem execSetSetpoint_accounts (ch : Byte) (x : Pattern) (s : State) : Accounts 1 s (execSetSetpoint ch x s) := by
  unfold execSetSetpoint
  split
  · exact withLock_accounts _ (fun t => messageLedger_respondOk _ (modChan ch.toNat _ t)) s
  · exact refused_accounts _ s

theorem execDiscover_accounts (s : State) : Accounts 1 s (execDiscover s) := by
  have h : messageLedger (discoverAddress s).2 = messageLedger s :=
    messageLedger_congr (by simp) (by simp) (by simp) (by simp)
  unfold execDiscover
  split
  · apply accounts_next
    split <;> next heq => simp only [messageLedger_respondOk, messageLedger_raise, ← h, heq]
  · exact refused_accounts _ s

theorem execAssign_accounts (w : Half) (s : State) : Accounts 1 s (execAssign w s) := by
  have h : messageLedger (assignAddress w s).2 = messageLedger s :=
    messageLedger_congr (by simp) (by simp) (by simp) (by simp)
  unfold execAssign
  split
  · apply accounts_next
    split <;> next heq => simp only [messageLedger_respondOk, messageLedger_raise, ← h, heq]
  · exact refused_accounts _ s

theorem execReadTemp_accounts (b : Byte) (s : State) : Accounts 1 s (execReadTemp b s) := by
  have h : messageLedger (readTemperature b s).2 = messageLedger s :=
    messageLedger_congr (by simp) (by simp) (by simp) (by simp)
  unfold execReadTemp
  split
  · split
    · apply accounts_next
      split <;> next heq => simp only [messageLedger_respondOk, messageLedger_raise, ← h, heq]
    · exact refused_accounts _ s
  · exact refused_accounts _ s

/-- A command is a message to account for, a frame is none. -/
def messagesOf (i : Instr) : Nat := if i.port = .host then 1 else 0

/-- A command is answered or waits, and a frame changes nothing of the account; of a STOP this needs that no other one waits. -/
theorem exec_accounts (i : Instr) {s : State} (hstop : s.stopWait = true → s.running = false) :
    Accounts (messagesOf i) s (exec i s) := by
  cases i with
  | start => exact withLock_accounts _ messageLedger_startBody s
  | stop => exact execStop_accounts hstop
  | enable b => exact execEnable_accounts b s
  | stepCycle => exact execStepCycle_accounts s
  | setGains ch kp ki kd => exact execSetGains_accounts ch kp ki kd s
  | setSetpoint ch x => exact execSetSetpoint_accounts ch x s
  | status => exact withLock_accounts _ (fun t => messageLedger_respondOk _ t) s
  | discover => exact execDiscover_accounts s
  | assign w => exact execAssign_accounts w s
  | readTemp b => exact execReadTemp_accounts b s
  | crcInit | crcFeed | crcRead => exact accounts_next (messageLedger_respondOk _ _)
  | mbReq3 | mbReq6 => exact accounts_next (messageLedger_emitRequest _ s)
  | mbResp3 | mbResp6 => exact accounts_next (messageLedger_acceptFrame _ s)

/-! #### Every step -/

/-- Running the move `m` leaves the account of `s`. -/
def KeepsLedger (s : State) (m : Move) : Prop := Accounts 0 s (runMove m)

theorem keepsLedger_goOn {s t : State} (h : messageLedger t = messageLedger s) : KeepsLedger s (.goOn t) := accounts_next h

/-- A fetched command is taken out of the account, and put back by its execution. -/
theorem keepsLedger_run {s s' : State} {i : Instr} (hstop : s'.stopWait = true → s'.running = false)
    (h : messageLedger s' + messagesOf i = messageLedger s) : KeepsLedger s (.run i s') :=
  fun t ht => (exec_accounts i hstop t ht).trans h

/-- A frame is fetched from the bus or the open transaction, not from the account. -/
theorem keepsLedger_frame {s s' : State} {p : Port} {f : List Byte} {i : Instr} (hp : p ≠ .host) (hd : decode p f = .ok i)
    (hstop : s'.stopWait = true → s'.running = false) (h : messageLedger s' = messageLedger s) : KeepsLedger s (.run i s') := by
  obtain ⟨hport, -⟩ := decodedBytesReencode p f i hd
  have hmessages : messagesOf i = 0 := if_neg (hport ▸ hp)
  exact keepsLedger_run hstop (by rw [hmessages, h, Nat.add_zero])

theorem rxPort_ne_host (n : Nat) : rxPort n ≠ .host := by unfold rxPort; split <;> decide

theorem fetchMessage_keepsLedger {s s' : State} (m : List Byte) (hstop : s'.stopWait = true → s'.running = false)
    (h : messageLedger s' + 1 = messageLedger s) : KeepsLedger s (fetchMessage m s') := by
  unfold fetchMessage
  split
  · next i hd =>
    have hmessages : messagesOf i = 1 := if_pos (decodeHost_port hd)
    exact keepsLedger_run hstop (by rw [hmessages, h])
  · apply keepsLedger_goOn
    unfold refuseMessage
    split <;> exact (messageLedger_raise _ s').trans h

theorem fetchBus_keepsLedger (bs : List Byte) {s : State} (hstop : s.stopWait = true → s.running = false) :
    KeepsLedger s (fetchBus bs s) := by
  unfold fetchBus
  dsimp only
  split
  · exact keepsLedger_goOn rfl
  · next t _ =>
    unfold fetchFrame
    rcases takeRx_spec t.len { s with rxbuf := s.rxbuf ++ bs } with ⟨-, h⟩ | ⟨-, h⟩ <;> rw [h] <;> dsimp only
    · split
      · exact keepsLedger_frame (rxPort_ne_host _) ‹_› hstop rfl
      · exact keepsLedger_goOn (messageLedger_acceptFrame _ _)
    · exact keepsLedger_goOn rfl

theorem fetchInput_keepsLedger {s : State} (hstop : s.stopWait = true → s.running = false) :
    KeepsLedger s (fetchInput s) := by
  unfold fetchInput
  split
  · exact keepsLedger_goOn rfl
  · next h => exact fetchMessage_keepsLedger _ hstop (messageLedger_message h)
  · next bs rest h =>
    have hbus := fetchBus_keepsLedger bs (s := { s with inbox := rest }) hstop
    exact fun t ht => (hbus t ht).trans (messageLedger_noMessage h nofun)
  · next h => exact keepsLedger_goOn ((messageLedger_waitTimeout _).trans (messageLedger_noMessage h nofun))
  · next h =>
    apply keepsLedger_goOn
    split
    · exact (messageLedger_engineTop _).trans (messageLedger_noMessage h nofun)
    · exact messageLedger_noMessage h nofun
  · next h => exact keepsLedger_goOn ((messageLedger_pollRunning _).trans (messageLedger_noMessage h nofun))
  · next h => exact keepsLedger_goOn ((messageLedger_graceExpired _).trans (messageLedger_noMessage h nofun))

theorem fetchRequest_keepsLedger (t : Txn) {s : State} (hstop : s.stopWait = true → s.running = false) :
    KeepsLedger s (fetchRequest t s) := by
  unfold fetchRequest
  split
  · exact keepsLedger_goOn (messageLedger_cancel (transmit t s))
  · split
    · exact keepsLedger_frame (p := .tx) (by decide) ‹_› hstop rfl
    · exact keepsLedger_goOn rfl

theorem fetchEngine_keepsLedger {s : State} (hstop : s.stopWait = true → s.running = false) :
    KeepsLedger s (fetchEngine s) := by
  unfold fetchEngine
  split
  · split
    · exact fetchInput_keepsLedger hstop
    · exact fetchRequest_keepsLedger _ hstop
  · exact keepsLedger_goOn (messageLedger_startRead _ s)
  · exact keepsLedger_goOn (messageLedger_finishCycle _ s)
  · exact fetchInput_keepsLedger hstop

/-- Work that waited for the lock is taken out of the account, and put back as it runs. -/
theorem resume_keepsLedger {s : State} {w : Pending} {rest : List Pending} (hs : seqInv s) (hw : s.waiting = w :: rest) :
    KeepsLedger s (.resume w { s with waiting := rest }) := by
  obtain ⟨-, -, -, -, -, -, -, -, hstop, hwait⟩ := hs
  obtain ⟨i, rfl, hi⟩ := hwait w (hw ▸ List.mem_cons_self)
  have hmessages : messagesOf i = 1 := if_pos (port_of_takesLock hi)
  exact keepsLedger_run (i := i) (fun h => (hstop h).2.1) (by rw [hmessages, messageLedger_unblocked hw])

theorem nextMove_keepsLedger {s : State} (hs : seqInv s) : KeepsLedger s (nextMove s) := by
  have hstop : s.stopWait = true → s.running = false := by
    obtain ⟨-, -, -, -, -, -, -, -, hstop, -⟩ := hs
    exact fun h => (hstop h).2.1
  unfold nextMove
  split
  · split
    · exact resume_keepsLedger hs ‹_›
    · exact fetchEngine_keepsLedger hstop
  · exact fetchEngine_keepsLedger hstop

/-- Settles O54: a message that is taken in is answered or put to wait, and one that waited is answered, by cases on the next move. -/
theorem noMessageLostOrInvented : Obligations.NoMessageLostOrInvented := fun _ t hs h => nextMove_keepsLedger hs t h

end Sys2Proof.Machine

namespace Sys2Proof.Machine

/-! ### R91-R93: the host CRC commands -/

/-- Settles O8: no command has a case of its own for any state, so both sides of each clause are the same record. -/
theorem crcCommands : Obligations.CrcCommands := by
  intro s
  refine ⟨?init, fun b => ?feed, ?read⟩
  case init => rfl
  case feed => rfl
  case read => rfl

/-! ### R86, R87: the bit step and the byte step are linear and one-to-one -/

/-- The polynomial sets bit 15, which the shift leaves clear, so the top bit of a bit step is the bit that was shifted out. -/
theorem crcBit_getLsbD_fifteen (c : Half) : (crcBit c).getLsbD 15 = c.getLsbD 0 := by
  unfold crcBit Config.crcPoly
  split <;> simp_all

theorem crcBit_of_even {c : Half} (h : c.getLsbD 0 = false) : crcBit c = c >>> 1 := by rw [crcBit, h]; rfl

theorem crcBit_xor (x y : Half) : crcBit (x ^^^ y) = crcBit x ^^^ crcBit y := by
  have hpoly : ∀ u v : Half, u ^^^ v = (u ^^^ Config.crcPoly) ^^^ (v ^^^ Config.crcPoly) := by
    intro u v
    rw [BitVec.xor_assoc, BitVec.xor_comm v, ← BitVec.xor_assoc Config.crcPoly, BitVec.xor_self, BitVec.zero_xor]
  unfold crcBit
  rw [BitVec.getLsbD_xor, BitVec.ushiftRight_xor_distrib]
  cases x.getLsbD 0 <;> cases y.getLsbD 0
  case true.true => exact hpoly _ _
  all_goals simp only [Bool.bne_true, Bool.bne_false, Bool.not_false, if_true, Bool.false_eq_true, if_false]
  all_goals ac_rfl

theorem crcBit_eq_zero {c : Half} (h : crcBit c = 0) : c = 0 := by
  have heven : c.getLsbD 0 = false := by rw [← crcBit_getLsbD_fifteen, h]; rfl
  rw [crcBit_of_even heven] at h
  apply BitVec.eq_of_getLsbD_eq
  intro i _
  cases i with
  | zero => simpa using heven
  | succ i => simpa [Nat.add_comm] using congrArg (BitVec.getLsbD · i) h

theorem crcBit_injective : Function.Injective crcBit := by
  intro x y h
  have hdiff : crcBit (x ^^^ y) = 0 := by rw [crcBit_xor, h, BitVec.xor_self]; rfl
  exact BitVec.xor_eq_zero_iff.mp (crcBit_eq_zero hdiff)

theorem iterate_crcBit_xor (n : Nat) (x y : Half) : crcBit^[n] (x ^^^ y) = crcBit^[n] x ^^^ crcBit^[n] y :=
  Function.Semiconj₂.iterate crcBit_xor n x y

/-- Clear low bits are shifted out without the polynomial. -/
theorem iterate_crcBit_of_clear (n : Nat) {c : Half} (h : ∀ i < n, c.getLsbD i = false) : crcBit^[n] c = c >>> n := by
  induction n with
  | zero => rfl
  | succ n ih =>
    have hbit : (c >>> n).getLsbD 0 = false := by simpa using h n n.lt_succ_self
    rw [Function.iterate_succ_apply', ih fun i hi => h i (Nat.lt_succ_of_lt hi), crcBit_of_even hbit,
      ← BitVec.shiftRight_add]

theorem iterate_crcBit_shiftLeft (n : Nat) (x : Half) : crcBit^[n] (x <<< n) = x <<< n >>> n :=
  iterate_crcBit_of_clear n fun i hi => by simp [hi]

theorem iterate_crcBit_zero (n : Nat) : crcBit^[n] 0 = 0 := Function.iterate_fixed (by decide) n

theorem iterate_crcBit_eq_zero_iff (n : Nat) (c : Half) : crcBit^[n] c = 0 ↔ c = 0 := by
  rw [← (crcBit_injective.iterate n).eq_iff (a := c), iterate_crcBit_zero]

theorem crcByte_eq_iterate (c : Half) (b : Byte) : crcByte c b = crcBit^[8] (c ^^^ b.zeroExtend 16) := rfl

theorem crcByte_left_injective (b : Byte) : Function.Injective (crcByte · b) := by
  intro x y h
  exact (BitVec.xor_left_inj _).mp (crcBit_injective.iterate 8 h)

theorem crcByte_right_injective (c : Half) : Function.Injective (crcByte c) := by
  intro x y h
  have hext : x.zeroExtend 16 = y.zeroExtend 16 := (BitVec.xor_right_inj _).mp (crcBit_injective.iterate 8 h)
  bv_omega

theorem foldl_crcByte_injective (s : List Byte) : Function.Injective (s.foldl crcByte) := by
  induction s with
  | nil => exact fun _ _ h => h
  | cons b s ih => exact fun _ _ h => crcByte_left_injective b (ih h)

/-! ### R94: the residue and the table form -/

/-- Two byte steps are sixteen bit steps on the accumulator against the two bytes as one word: the second byte, put in the upper
half of the word, reaches the lower half as the first byte leaves it. -/
theorem crcByte_crcByte (c : Half) (l h : Byte) : crcByte (crcByte c l) h = crcBit^[16] (c ^^^ be16 h l) := by
  have hupper : crcBit^[8] (h.zeroExtend 16 <<< 8) = h.zeroExtend 16 := by
    rw [iterate_crcBit_shiftLeft]
    bv_omega
  have hword : c ^^^ be16 h l = c ^^^ l.zeroExtend 16 ^^^ (h.zeroExtend 16 <<< 8) := by
    apply BitVec.eq_of_getLsbD_eq
    intro i hi
    simp only [be16, BitVec.getLsbD_xor, BitVec.getLsbD_or, BitVec.getLsbD_shiftLeft, BitVec.truncate_eq_setWidth,
      BitVec.getLsbD_setWidth]
    grind
  calc crcByte (crcByte c l) h
      = crcBit^[8] (crcBit^[8] (c ^^^ l.zeroExtend 16) ^^^ h.zeroExtend 16) := rfl
    _ = crcBit^[8] (crcBit^[8] (c ^^^ l.zeroExtend 16 ^^^ (h.zeroExtend 16 <<< 8))) := by
      rw [iterate_crcBit_xor, iterate_crcBit_xor 8 _ (h.zeroExtend 16 <<< 8), hupper, ← iterate_crcBit_xor]
    _ = crcBit^[16] (c ^^^ be16 h l) := by rw [← hword, ← Function.iterate_add_apply]

/-- R94, item 2: the upper byte of the accumulator only moves down, and the lower byte alone goes through the table. -/
theorem crcByte_table (c : Half) (b : Byte) :
    crcByte c b = (c >>> 8) ^^^ crcBit^[8] ((c ^^^ b.zeroExtend 16) &&& 0x00FF) := by
  have hsplit : c ^^^ b.zeroExtend 16 = (c >>> 8 <<< 8) ^^^ ((c ^^^ b.zeroExtend 16) &&& 0x00FF) := by
    apply BitVec.eq_of_getLsbD_eq
    intro i hi
    have hmask : (0x00FF : Half).getLsbD i = decide (i < 8) := by decide +revert
    simp only [BitVec.getLsbD_xor, BitVec.getLsbD_and, BitVec.getLsbD_shiftLeft, BitVec.getLsbD_ushiftRight,
      BitVec.truncate_eq_setWidth, BitVec.getLsbD_setWidth, hmask]
    grind
  have hupper : crcBit^[8] (c >>> 8 <<< 8) = c >>> 8 := by
    rw [iterate_crcBit_shiftLeft]
    bv_omega
  rw [crcByte_eq_iterate, ← hupper, ← iterate_crcBit_xor, ← hsplit]

theorem crc16_append (s t : List Byte) : crc16 (s ++ t) = t.foldl crcByte (crc16 s) := List.foldl_append

theorem crcOk_append_trailer (s : List Byte) (cl ch : Byte) : crcOk (s ++ [cl, ch]) = true ↔ crc16 s = be16 ch cl := by
  simp [crcOk]

theorem crc16_append_trailer (s : List Byte) (cl ch : Byte) : crc16 (s ++ [cl, ch]) = 0 ↔ crc16 s = be16 ch cl := by
  calc crc16 (s ++ [cl, ch]) = 0
      ↔ crcByte (crcByte (crc16 s) cl) ch = 0 := by rw [crc16_append]; rfl
    _ ↔ crc16 s ^^^ be16 ch cl = 0 := by rw [crcByte_crcByte, iterate_crcBit_eq_zero_iff]
    _ ↔ crc16 s = be16 ch cl := BitVec.xor_eq_zero_iff

/-- R90, R94: the check is the residue, for a string that has room for a trailer. -/
theorem crcOk_iff_residue (f : List Byte) (h : 2 ≤ f.length) : crcOk f = true ↔ crc16 f = 0 := by
  obtain ⟨cl, ch, htrailer⟩ : ∃ cl ch, f.drop (f.length - 2) = [cl, ch] := List.length_eq_two.mp (by simp; omega)
  rw [← List.take_append_drop (f.length - 2) f, htrailer, crcOk_append_trailer, crc16_append_trailer]

theorem two_le_length_of_crcOk {f : List Byte} (h : crcOk f = true) : 2 ≤ f.length := by
  unfold crcOk at h
  split at h
  · next cl ch htrailer =>
    have hlength := congrArg List.length htrailer
    rw [List.length_drop] at hlength
    simp only [List.length_cons, List.length_nil] at hlength
    omega
  · cases h

/-- R94, item 1. -/
theorem crc16_withCrc (s : List Byte) : crc16 (withCrc s) = 0 :=
  (crcOk_iff_residue _ (by simp [withCrc])).mp (crcOk_withCrc s)

/-- Settles O10: the general clauses are the lemmas above; the table entries and the catalogue value are closed and evaluated. -/
theorem crcResidueAndTable : Obligations.CrcResidueAndTable := by
  refine ⟨crc16_withCrc, crcOk_iff_residue, crcByte_table, ?_⟩
  decide +kernel

/-! ### R90: one changed byte -/

/-- One changed byte of a string changes its CRC. -/
theorem crc16_byte_injective (s t : List Byte) : Function.Injective fun b => crc16 (s ++ b :: t) := by
  intro x y h
  simp only [crc16_append, List.foldl_cons] at h
  exact crcByte_right_injective _ (foldl_crcByte_injective t h)

theorem crc16_modify_ne {f : List Byte} {j : Nat} {g : Byte → Byte} (hj : j < f.length) (hg : ∀ b, g b ≠ b) :
    crc16 (f.modify j g) ≠ crc16 f := by
  intro h
  rw [List.modify_eq_take_cons_drop hj] at h
  conv_rhs at h => rw [← List.take_append_drop j f, List.drop_eq_getElem_cons hj]
  exact hg _ (crc16_byte_injective _ _ h)

theorem xor_oneBit_ne {k : Nat} (hk : k < 8) (b : Byte) : b ^^^ ((1 : Byte) <<< k) ≠ b := by
  have hbit : (1 : Byte) <<< k ≠ 0 := by decide +revert
  exact fun h => hbit (by simpa using h)

/-- Settles O11: a frame that passes has residue 0, and a flipped bit changes one byte and with it the residue. -/
theorem crcDetectsEveryBitFlip : Obligations.CrcDetectsEveryBitFlip := by
  intro f j k hok hj hk
  have hlen : 2 ≤ f.length := two_le_length_of_crcOk hok
  have hresidue : crc16 f = 0 := (crcOk_iff_residue f hlen).mp hok
  have hflip := crc16_modify_ne hj fun b => xor_oneBit_ne hk b
  rw [hresidue] at hflip
  exact Bool.eq_false_iff.mpr (mt (crcOk_iff_residue _ (by rwa [List.length_modify])).mp hflip)

end Sys2Proof.Machine

namespace Sys2Proof.Machine

/-! ### R98: the echo check -/

/-- Bytes 1 to 5 agree as a slice exactly if they agree one by one. -/
theorem take_drop_eq_iff (f q : List Byte) :
    (f.drop 1).take 5 = (q.drop 1).take 5 ↔ ∀ j, 1 ≤ j → j ≤ 5 → f[j]? = q[j]? := by
  have hslice (l : List Byte) (i : Nat) : ((l.drop 1).take 5)[i]? = if i < 5 then l[1 + i]? else none := by
    rw [List.getElem?_take, List.getElem?_drop]
  constructor
  · intro h j hlo hhi
    obtain ⟨i, rfl⟩ := Nat.exists_eq_add_of_le hlo
    have hi := congrArg (·[i]?) h
    simpa only [hslice, if_pos (show i < 5 by omega)] using hi
  · intro h
    apply List.ext_getElem?
    intro i
    rw [hslice, hslice]
    split
    · exact h (1 + i) (Nat.le_add_right 1 i) (by omega)
    · rfl

theorem echo6_crcBad {f : List Byte} (q : List Byte) (h : crcOk f = false) : echo6 f q = .error .crcBad := by
  simp [echo6, h]

theorem echo6_echoBad {f q : List Byte} (h : crcOk f = true) (hne : (f.drop 1).take 5 ≠ (q.drop 1).take 5) :
    echo6 f q = .error .echoBad := by
  rw [echo6, if_neg (by simp [h]), if_pos hne]

theorem echo6_ok {f q : List Byte} (h : crcOk f = true) (heq : (f.drop 1).take 5 = (q.drop 1).take 5) :
    echo6 f q = .ok () := by
  rw [echo6, if_neg (by simp [h]), if_neg (not_not.mpr heq)]

/-- Settles O14: the CRC decides first, then the slice of bytes 1 to 5. -/
theorem echoComparison : Obligations.EchoComparison := by
  refine fun f q _ _ => ⟨echo6_crcBad q, fun hcrc hdiff => ?_, fun hcrc hsame => ?_⟩
  · refine echo6_echoBad hcrc fun heq => ?_
    obtain ⟨j, hlo, hhi, hne⟩ := hdiff
    exact hne ((take_drop_eq_iff f q).mp heq j hlo hhi)
  · exact echo6_ok hcrc ((take_drop_eq_iff f q).mpr hsame)

/-! ### R100: a transaction in the host context, its bus answers scripted -/

/-- The state after a failed attempt on the answer `a`, the transport recovered (R133). -/
def failedAttemptState (t : Txn) (a : List Byte) (rest : List (List Byte)) (s : State) : State :=
  { s with
    rxbuf := []
    txn := some { t with sent := true }
    events := s.events ++ failureEvents t a
    env := { s.env with rx := rest } }

/-- The state after a transaction that the answer `a` ended; `es` are the events of the attempts that failed before. -/
def acceptedTxnState (t : Txn) (es : List Event) (a : List Byte) (rest : List (List Byte)) (s : State) : State :=
  { s with
    txn := none
    rxbuf := a.drop t.len
    events := s.events ++ es ++ [.tx t.req, .rx (a.take t.len)]
    env := { s.env with rx := rest } }

/-- The state after a transaction of which every attempt failed, with the events `es`. -/
def failedTxnState (es : List Event) (rest : List (List Byte)) (s : State) : State :=
  { s with txn := none, rxbuf := [], events := s.events ++ es, env := { s.env with rx := rest } }

/-- An accepted answer is no timeout. -/
theorem answerOf_of_judge_ok {t : Txn} {n : Nat} {a : List Byte} {v : Half} (h : judge t (answerOf n a) = .ok v) :
    n ≤ a.length ∧ answerOf n a = some (a.take n) := by
  by_cases hn : n ≤ a.length
  · exact ⟨hn, if_pos hn⟩
  · rw [answerOf, if_neg hn] at h
    cases h

theorem failureEvents_of_error {t : Txn} {a : List Byte} {c : Cause} (h : judge t (answerOf t.len a) = .error c) :
    failureEvents t a = failedEvents t (answerOf t.len a) c := by simp [failureEvents, h]

/-- The events of failed attempts of which the first has the number of `t`. -/
def attemptEventsFrom (t : Txn) : List (List Byte) → List Event
  | [] => []
  | a :: as => failureEvents t a ++ attemptEventsFrom { t with attempt := t.attempt + 1 } as

theorem attemptEventsFrom_eq (t : Txn) (as : List (List Byte)) : attemptEventsFrom t as =
    (as.mapIdx fun j a => failureEvents { t with attempt := t.attempt + j } a).flatten := by
  induction as generalizing t with
  | nil => rfl
  | cons a as ih => simp [attemptEventsFrom, ih, List.mapIdx_cons, Nat.add_assoc, Nat.add_comm 1]

theorem attemptEvents_eq_from (q : List Byte) (len lim : Nat) (k : RespKind) (as : List (List Byte)) :
    attemptEvents (newTxn q len lim k) as = attemptEventsFrom (newTxn q len lim k) as := by
  simp [attemptEvents, attemptEventsFrom_eq, newTxn, Nat.add_comm]

section Attempts

variable {t : Txn} {s : State} {a : List Byte} {rest : List (List Byte)} {c : Cause} {v : Half}

/-- An accepted answer ends the transaction, however many attempts are left. -/
theorem runAttempts_accepted (more : Nat) (hrx : s.env.rx = a :: rest) (h : judge t (answerOf t.len a) = .ok v) :
    runAttempts more t s = (.ok v, acceptedTxnState t [] a rest s) := by
  obtain ⟨hlen, hans⟩ := answerOf_of_judge_ok h
  have honce := attemptOnce_scripted t s a rest hrx
  rw [h, if_pos hlen, hans] at honce
  cases more <;>
    simp [runAttempts, honce, closeTxn, acceptedTxnState, answerEvent]

theorem attemptOnce_failed (hrx : s.env.rx = a :: rest) (h : judge t (answerOf t.len a) = .error c) :
    (attemptOnce t s).1 = .error c ∧ recover t c (attemptOnce t s).2 = failedAttemptState t a rest s := by
  have honce := attemptOnce_scripted t s a rest hrx
  rw [h] at honce
  rw [honce, recover_eq]
  simp [failedAttemptState, failureEvents_of_error h, failedEvents]

theorem runAttempts_retried (more : Nat) (hrx : s.env.rx = a :: rest) (h : judge t (answerOf t.len a) = .error c) :
    runAttempts (more + 1) t s = runAttempts more { t with attempt := t.attempt + 1 } (failedAttemptState t a rest s) := by
  obtain ⟨hres, hstate⟩ := attemptOnce_failed hrx h
  rw [runAttempts, ← hstate]
  split <;> simp_all

theorem runAttempts_last (hrx : s.env.rx = a :: rest) (h : judge t (answerOf t.len a) = .error c) :
    runAttempts 0 t s = (.error c, closeTxn (failedAttemptState t a rest s)) := by
  obtain ⟨hres, hstate⟩ := attemptOnce_failed hrx h
  rw [runAttempts, ← hstate]
  split <;> simp_all

end Attempts

/-- Failed attempts within the limit, then an accepted answer. -/
theorem runAttempts_accepts {t : Txn} {s : State} {fails rest : List (List Byte)} {a : List Byte} {v : Half} {more : Nat}
    (hfails : ∀ b ∈ fails, ∃ c, judge t (answerOf t.len b) = .error c) (hmore : fails.length ≤ more)
    (hrx : s.env.rx = fails ++ a :: rest) (ha : judge t (answerOf t.len a) = .ok v) :
    runAttempts more t s = (.ok v, acceptedTxnState t (attemptEventsFrom t fails) a rest s) := by
  induction fails generalizing t s more with
  | nil => exact runAttempts_accepted more hrx ha
  | cons b fails ih =>
    obtain ⟨⟨c, hb⟩, hfails⟩ := List.forall_mem_cons.mp hfails
    obtain ⟨more, rfl⟩ : ∃ n, more = n + 1 := Nat.exists_eq_add_one.mpr (by simp at hmore; omega)
    rw [runAttempts_retried more hrx hb, ih (t := { t with attempt := t.attempt + 1 }) hfails (by simpa using hmore) rfl ha]
    simp [acceptedTxnState, failedAttemptState, attemptEventsFrom]

/-- As many failed attempts as the transaction has: the cause is the last one's. -/
theorem runAttempts_fails {t : Txn} {s : State} {fails rest : List (List Byte)} {b : List Byte} {c : Cause} {more : Nat}
    (hfails : ∀ b ∈ fails, ∃ c, judge t (answerOf t.len b) = .error c) (hmore : fails.length = more + 1)
    (hrx : s.env.rx = fails ++ rest) (hlast : fails.getLast? = some b) (hb : judge t (answerOf t.len b) = .error c) :
    runAttempts more t s = (.error c, failedTxnState (attemptEventsFrom t fails) rest s) := by
  induction more generalizing t s fails with
  | zero =>
    obtain ⟨x, rfl⟩ := List.length_eq_one_iff.mp hmore
    obtain rfl : x = b := by simpa using hlast
    rw [runAttempts_last hrx hb]
    simp [closeTxn, failedTxnState, failedAttemptState, attemptEventsFrom]
  | succ more ih =>
    obtain ⟨x, y, fails, rfl⟩ : ∃ x y l, fails = x :: y :: l := by
      match fails, hmore with
      | x :: y :: l, _ => exact ⟨x, y, l, rfl⟩
    obtain ⟨⟨c', hx⟩, hfails⟩ := List.forall_mem_cons.mp hfails
    rw [runAttempts_retried more hrx hx, ih (t := { t with attempt := t.attempt + 1 }) hfails (by simpa using hmore) rfl
      (by simpa using hlast) hb]
    simp [failedTxnState, failedAttemptState, attemptEventsFrom]

section Outcomes

variable {q : List Byte} {len lim : Nat} {k : RespKind} {s : State} {fails rest : List (List Byte)}

theorem runTxn_accepts {a : List Byte} {v : Half}
    (hfails : ∀ b ∈ fails, ∃ c, judge (newTxn q len lim k) (answerOf len b) = .error c) (hlim : fails.length < lim)
    (hrx : s.env.rx = fails ++ a :: rest) (ha : judge (newTxn q len lim k) (answerOf len a) = .ok v) :
    runTxn q len lim k s = (.ok v, acceptedTxnState (newTxn q len lim k) (attemptEvents (newTxn q len lim k) fails) a rest s) := by
  rw [runTxn, runAttempts_accepts (t := newTxn q len lim k) hfails (by omega) hrx ha, attemptEvents_eq_from]

theorem runTxn_fails {b : List Byte} {c : Cause}
    (hfails : ∀ b ∈ fails, ∃ c, judge (newTxn q len lim k) (answerOf len b) = .error c) (hlim : fails.length = lim)
    (hlast : fails.getLast? = some b) (hrx : s.env.rx = fails ++ rest)
    (hb : judge (newTxn q len lim k) (answerOf len b) = .error c) :
    runTxn q len lim k s = (.error c, failedTxnState (attemptEvents (newTxn q len lim k) fails) rest s) := by
  have hpos : fails.length ≠ 0 := by
    rintro h
    rw [List.length_eq_zero_iff.mp h] at hlast
    cases hlast
  rw [runTxn, runAttempts_fails (t := newTxn q len lim k) hfails (by omega) hrx hlast hb, attemptEvents_eq_from]

/-- A transaction of which every attempt fails ends with some cause. -/
theorem runTxn_exhausted (hfails : ∀ b ∈ fails, ∃ c, judge (newTxn q len lim k) (answerOf len b) = .error c)
    (hpos : 1 ≤ lim) (hlim : fails.length = lim) (hrx : s.env.rx = fails ++ rest) :
    ∃ c, runTxn q len lim k s = (.error c, failedTxnState (attemptEvents (newTxn q len lim k) fails) rest s) := by
  have hne : fails ≠ [] := List.ne_nil_of_length_pos (by omega)
  obtain ⟨c, hc⟩ := hfails _ (List.getLast_mem hne)
  exact ⟨c, runTxn_fails hfails hlim (List.getLast?_eq_some_getLast hne) hrx hc⟩

end Outcomes

/-- Settles O16: by induction on the failed attempts. -/
theorem transactionOutcomes : Obligations.TransactionOutcomes :=
  fun _ _ _ _ _ _ _ hfails => ⟨fun _ _ hlim hrx ha => runTxn_accepts hfails hlim hrx ha,
    fun _ _ hlim hlast hrx hb => runTxn_fails hfails hlim hlast hrx hb⟩

end Sys2Proof.Machine

namespace Sys2Proof.Machine

/-! ### R97, R98, R103: what the decoders make of a scripted answer -/

theorem le_0xFF_iff_hi_eq_zero (w : Half) : w ≤ 0xFF ↔ hi w = 0 := by
  have hlt := w.isLt
  rw [BitVec.le_def, ← BitVec.toNat_inj, hi, BitVec.extractLsb'_toNat, Nat.shiftRight_eq_div_pow]
  change w.toNat ≤ 255 ↔ w.toNat / 256 % 256 = 0
  omega

section Answers

variable {q a : List Byte} {lim : Nat}

theorem judge_short {n : Nat} {k : RespKind} (h : a.length < n) :
    judge (newTxn q n lim k) (answerOf n a) = .error .timeout := by
  rw [answerOf, if_neg h.not_ge]
  rfl

theorem judge_long {n : Nat} {k : RespKind} (h : n ≤ a.length) :
    judge (newTxn q n lim k) (answerOf n a) = decodeResponse k q (a.take n) := by
  rw [answerOf, if_pos h]
  rfl

theorem resp3_take (a : List Byte) : resp3 (a.take 7) =
    if crcOk (a.take 7) then .ok (be16 (a.getD 3 0) (a.getD 4 0)) else .error .crcBad := by
  simp [resp3]

/-- R102: a read takes the answers that `readingOf` reads. -/
theorem judge_read_of_some {p : Params} {m : F} (h : readingOf p a = some m) :
    ∃ raw, judge (newTxn q 7 lim .resp3) (answerOf 7 a) = .ok raw ∧ m = temp p raw := by
  unfold readingOf at h
  split at h
  · next hgood =>
    obtain ⟨hlen, hcrc⟩ := hgood
    exact ⟨_, by rw [judge_long hlen, decodeResponse, resp3_take, if_pos hcrc], (Option.some.inj h).symm⟩
  · cases h

/-- The cause of a failed read says whether the answer was complete. -/
theorem judge_read_of_none {p : Params} (h : readingOf p a = none) :
    judge (newTxn q 7 lim .resp3) (answerOf 7 a) = .error (if 7 ≤ a.length then .crcBad else .timeout) := by
  by_cases hlen : 7 ≤ a.length
  · have hcrc : crcOk (a.take 7) ≠ true := fun hcrc => by simp [readingOf, hlen, hcrc] at h
    rw [judge_long hlen, decodeResponse, resp3_take, if_neg hcrc, if_pos hlen]
  · rw [judge_short (not_le.mp hlen), if_neg hlen]

theorem discDec_take (a : List Byte) : discDec (a.take 7) =
    if crcOk (a.take 7) then
      if a.getD 3 0 = 0 then .ok (be16 (a.getD 3 0) (a.getD 4 0)) else .error .unusable
    else .error .crcBad := by
  have hzero := le_0xFF_iff_hi_eq_zero (be16 (a.getD 3 0) (a.getD 4 0))
  rw [hi_be16] at hzero
  rw [discDec, resp3_take]
  by_cases hcrc : crcOk (a.take 7) = true
  · simp only [if_pos hcrc, hzero]
  · simp only [if_neg hcrc]

/-- R103: discovery takes the answers that `discAnswer` reads. -/
theorem judge_disc_of_some {v : Byte} (h : discAnswer a = some v) :
    ∃ w, judge (newTxn q 7 lim .disc) (answerOf 7 a) = .ok w ∧ lo w = v := by
  unfold discAnswer at h
  split at h
  · next hgood =>
    obtain ⟨hlen, hcrc, hzero⟩ := hgood
    refine ⟨_, by rw [judge_long hlen, decodeResponse, discDec_take, if_pos hcrc, if_pos hzero], ?_⟩
    rw [lo_be16]
    exact Option.some.inj h
  · cases h

theorem judge_disc_of_none (h : discAnswer a = none) : ∃ c, judge (newTxn q 7 lim .disc) (answerOf 7 a) = .error c := by
  by_cases hlen : 7 ≤ a.length
  · rw [judge_long hlen, decodeResponse, discDec_take]
    split
    · next hcrc =>
      have hzero : a.getD 3 0 ≠ 0 := fun hzero => by rw [discAnswer, if_pos ⟨hlen, hcrc, hzero⟩] at h; cases h
      exact ⟨_, if_neg hzero⟩
    · exact ⟨_, rfl⟩
  · exact ⟨_, judge_short (not_le.mp hlen)⟩

theorem echoConfirms_iff (q a : List Byte) : echoConfirms q a = true ↔
    8 ≤ a.length ∧ crcOk (a.take 8) = true ∧ ((a.take 8).drop 1).take 5 = (q.drop 1).take 5 := by
  simp [echoConfirms, and_assoc]

/-- R104: a write is confirmed by the answers that `echoConfirms` takes. -/
theorem judge_echo_of_confirmed (h : echoConfirms q a = true) :
    judge (newTxn q 8 lim .echo) (answerOf 8 a) = .ok 0 := by
  obtain ⟨hlen, hcrc, heq⟩ := (echoConfirms_iff q a).mp h
  rw [judge_long hlen, decodeResponse, echo6_ok hcrc heq]

theorem judge_echo_of_unconfirmed (h : echoConfirms q a = false) :
    ∃ c, judge (newTxn q 8 lim .echo) (answerOf 8 a) = .error c := by
  by_cases hlen : 8 ≤ a.length
  · rw [judge_long hlen, decodeResponse]
    cases hcrc : crcOk (a.take 8) with
    | false => exact ⟨_, by rw [echo6_crcBad q hcrc]⟩
    | true =>
      have hne : ((a.take 8).drop 1).take 5 ≠ (q.drop 1).take 5 := fun heq => by
        simp [(echoConfirms_iff q a).mpr ⟨hlen, hcrc, heq⟩] at h
      exact ⟨_, by rw [echo6_echoBad hcrc hne]⟩
  · exact ⟨_, judge_short (not_le.mp hlen)⟩

end Answers

/-! ### R102-R104: the bus operations, their answers scripted -/

theorem busAllowed_of {s : State} (hloop : s.loop = .idle ∨ s.loop = .terminated) (hseq : s.seq = .stopped) :
    busAllowed s = true := by
  rcases hloop with h | h <;> simp [busAllowed, h, hseq]

theorem legalAddr_of {p : Params} {b : Byte} (hmin : p.addrMin ≤ b) (hmax : b ≤ p.addrMax) : legalAddr p b = true := by
  simp [legalAddr, hmin, hmax]

/-- R102: the transaction of a temperature read. -/
def readTxn (p : Params) (b : Byte) : Txn := newTxn (req3 b p.regTemp) 7 p.attRead .resp3

/-- R103: the transaction of a discovery. -/
def discTxn (p : Params) : Txn := newTxn (req3 p.bcast p.regAddr) 7 p.attDisc .disc

/-- R104: the transaction of a write. -/
def writeTxn (p : Params) (v : Byte) (w : Half) : Txn := newTxn (req6 v w) 8 p.attWrite .echo

section Operations

variable {s : State} {fails rest : List (List Byte)} {a : List Byte}

theorem readTemperature_reads {b : Byte} {m : F} (hfails : ∀ x ∈ fails, readingOf s.par x = none)
    (hlim : fails.length < s.par.attRead) (hrx : s.env.rx = fails ++ a :: rest) (ha : readingOf s.par a = some m) :
    readTemperature b s =
      (.ok m, acceptedTxnState (readTxn s.par b) (attemptEvents (readTxn s.par b) fails) a rest s) := by
  obtain ⟨raw, hraw, rfl⟩ := judge_read_of_some ha
  rw [readTemperature, runTxn_accepts (fun x hx => ⟨_, judge_read_of_none (hfails x hx)⟩) hlim hrx hraw]
  rfl

theorem readTemperature_fails {b : Byte} (hfails : ∀ x ∈ fails, readingOf s.par x = none)
    (hlim : fails.length + 1 = s.par.attRead) (hrx : s.env.rx = fails ++ a :: rest) (ha : readingOf s.par a = none) :
    readTemperature b s = (.error (if 7 ≤ a.length then .busChecksumMismatch else .busTimeout),
      failedTxnState (attemptEvents (readTxn s.par b) (fails ++ [a])) rest s) := by
  have hall : ∀ x ∈ fails ++ [a], readingOf s.par x = none :=
    List.forall_mem_append.mpr ⟨hfails, List.forall_mem_singleton.mpr ha⟩
  rw [readTemperature, runTxn_fails (fails := fails ++ [a]) (fun x hx => ⟨_, judge_read_of_none (hall x hx)⟩)
    (by simpa using hlim) (by simp) (by simpa using hrx) (judge_read_of_none ha)]
  split <;> rfl

theorem discoverAddress_finds {v : Byte} (hfails : ∀ x ∈ fails, discAnswer x = none)
    (hlim : fails.length < s.par.attDisc) (hrx : s.env.rx = fails ++ a :: rest) (ha : discAnswer a = some v) :
    discoverAddress s = (.ok v, acceptedTxnState (discTxn s.par) (attemptEvents (discTxn s.par) fails) a rest s) := by
  obtain ⟨w, hw, rfl⟩ := judge_disc_of_some ha
  rw [discoverAddress, runTxn_accepts (fun x hx => judge_disc_of_none (hfails x hx)) hlim hrx hw]
  rfl

theorem discoverAddress_fails (hfails : ∀ x ∈ fails, discAnswer x = none) (hpos : 1 ≤ s.par.attDisc)
    (hlim : fails.length = s.par.attDisc) (hrx : s.env.rx = fails ++ rest) :
    discoverAddress s = (.error .busNoDevice, failedTxnState (attemptEvents (discTxn s.par) fails) rest s) := by
  obtain ⟨c, hc⟩ := runTxn_exhausted (fun x hx => judge_disc_of_none (hfails x hx)) hpos hlim hrx
  rw [discoverAddress, hc]
  rfl

theorem assignAddress_noDevice {w : Half} {e : ResultCode} {t : State} (h : discoverAddress s = (.error e, t)) :
    assignAddress w s = (.error .busNoDevice, t) := by simp [assignAddress, h]

theorem assignAddress_confirmed {v : Byte} {w : Half} {s₁ : State} (hd : discoverAddress s = (.ok v, s₁))
    (hfails : ∀ x ∈ fails, echoConfirms (req6 v w) x = false) (hlim : fails.length < s₁.par.attWrite)
    (hrx : s₁.env.rx = fails ++ a :: rest) (ha : echoConfirms (req6 v w) a = true) : assignAddress w s =
      (.ok (), acceptedTxnState (writeTxn s₁.par v w) (attemptEvents (writeTxn s₁.par v w) fails) a rest s₁) := by
  have hw := runTxn_accepts (fun x hx => judge_echo_of_unconfirmed (hfails x hx)) hlim hrx (judge_echo_of_confirmed ha)
  simp [assignAddress, hd, hw, writeTxn]

theorem assignAddress_unconfirmed {v : Byte} {w : Half} {s₁ : State} (hd : discoverAddress s = (.ok v, s₁))
    (hfails : ∀ x ∈ fails, echoConfirms (req6 v w) x = false) (hpos : 1 ≤ s₁.par.attWrite)
    (hlim : fails.length = s₁.par.attWrite) (hrx : s₁.env.rx = fails ++ rest) : assignAddress w s =
      (.error .busWriteUnconfirmed, failedTxnState (attemptEvents (writeTxn s₁.par v w) fails) rest s₁) := by
  obtain ⟨c, hw⟩ := runTxn_exhausted (fun x hx => judge_echo_of_unconfirmed (hfails x hx)) hpos hlim hrx
  simp [assignAddress, hd, hw, writeTxn]

end Operations

/-! ### R102-R104, R129: the bus commands -/

section Commands

variable {s t : State} {e : ResultCode}

theorem exec_readTemp_ok {b : Byte} {m : F} (hb : legalAddr s.par b = true) (hs : busAllowed s = true)
    (h : readTemperature b s = (.ok m, t)) : exec (.readTemp b) s = .next (respondOk (bytes32 (bits32 m)) t) := by
  simp [exec, execReadTemp, hb, hs, h]

theorem exec_readTemp_error {b : Byte} (hb : legalAddr s.par b = true) (hs : busAllowed s = true)
    (h : readTemperature b s = (.error e, t)) : exec (.readTemp b) s = .next (raise e t) := by
  simp [exec, execReadTemp, hb, hs, h]

theorem exec_discover_ok {v : Byte} (hs : busAllowed s = true) (h : discoverAddress s = (.ok v, t)) :
    exec .discover s = .next (respondOk [v] t) := by simp [exec, execDiscover, hs, h]

theorem exec_discover_error (hs : busAllowed s = true) (h : discoverAddress s = (.error e, t)) :
    exec .discover s = .next (raise e t) := by simp [exec, execDiscover, hs, h]

theorem exec_assign_ok {w : Half} (hs : busAllowed s = true) (h : assignAddress w s = (.ok (), t)) :
    exec (.assign w) s = .next (respondOk [] t) := by simp [exec, execAssign, hs, h]

theorem exec_assign_error {w : Half} (hs : busAllowed s = true) (h : assignAddress w s = (.error e, t)) :
    exec (.assign w) s = .next (raise e t) := by simp [exec, execAssign, hs, h]

end Commands

/-- Settles O17: a read takes exactly the answers that have a reading. -/
theorem readTempOutcomes : Obligations.ReadTempOutcomes := by
  intro b s fails a rest hmin hmax hloop hseq hfails hlim hrx
  have hb := legalAddr_of hmin hmax
  have hs := busAllowed_of hloop hseq
  refine ⟨fun m ha => exec_readTemp_ok hb hs (readTemperature_reads hfails hlim hrx ha), fun ha hlast => ?_⟩
  rw [exec_readTemp_error hb hs (readTemperature_fails hfails hlast hrx ha)]
  split <;> rfl

/-- Settles O18: a discovery takes exactly the answers that have a usable address. -/
theorem discoverOutcomes : Obligations.DiscoverOutcomes := by
  intro s fails rest hloop hseq hfails
  have hs := busAllowed_of hloop hseq
  exact ⟨fun a v hlim hrx ha => exec_discover_ok hs (discoverAddress_finds hfails hlim hrx ha),
    fun hpos hlim hrx => exec_discover_error hs (discoverAddress_fails hfails hpos hlim hrx)⟩

/-- Settles O19: a discovery, then the write in the state that it leaves. -/
theorem assignOutcomes : Obligations.AssignOutcomes := by
  intro w s fails rest hloop hseq hfails
  have hs := busAllowed_of hloop hseq
  refine ⟨fun a v fails2 e hlim ha hlim2 hfails2 he hrx => ?_, fun a v fails2 hlim ha hpos2 hlim2 hfails2 hrx => ?_,
    fun hpos hlim hrx => ?_⟩
  · have hd := discoverAddress_finds hfails hlim hrx ha
    exact exec_assign_ok hs (assignAddress_confirmed hd hfails2 hlim2 rfl he)
  · have hd := discoverAddress_finds hfails hlim hrx ha
    exact exec_assign_error hs (assignAddress_unconfirmed hd hfails2 hpos2 hlim2 rfl)
  · exact exec_assign_error hs (assignAddress_noDevice (discoverAddress_fails hfails hpos hlim hrx))

end Sys2Proof.Machine

namespace Sys2Proof.Machine

/-! ### R99: the reading -/

/-- A value of binary32 is rounded to itself. -/
theorem correctlyRounded.exact {neg : Bool} {r : F} {k : ℕ} {q : ℤ}
    (h : correctlyRounded neg ((k : ℚ) * 2 ^ q) r) (hk : k < 2 ^ 24) (hq : -149 ≤ q)
    (hlt : (k : ℚ) * 2 ^ q < ((2 : ℚ) ^ 25 - 1) * 2 ^ 103) :
    ∃ (m : ℕ) (e : ℤ), r = .fin neg m e ∧ (m : ℚ) * 2 ^ e = k * 2 ^ q := by
  obtain ⟨m, e, hr, -, -, hnear⟩ := h.2 hlt
  obtain ⟨hle, -⟩ := hnear k q hk hq
  rw [sub_self, abs_zero] at hle
  exact ⟨m, e, hr, (sub_eq_zero.mp (abs_nonpos_iff.mp hle)).symm⟩

/-- R12: a raw register value is an integer that binary32 holds. -/
theorem fOfInt_raw (raw : Half) :
    ∃ (m : ℕ) (e : ℤ), fOfInt Fmt.binary32 (raw.toNat : ℤ) = .fin false m e ∧ (m : ℚ) * 2 ^ e = raw.toNat := by
  have h := fRound_correctlyRounded false (m := raw.toNat) 0 (.inl rfl)
  have hraw : raw.toNat < 2 ^ 16 := raw.isLt
  have hraw' : (raw.toNat : ℚ) < 2 ^ 16 := by exact_mod_cast hraw
  obtain ⟨m, e, hr, hv⟩ := h.exact (by omega) (by norm_num) (by rw [zpow_zero, mul_one]; exact hraw'.trans (by norm_num))
  refine ⟨m, e, ?_, by simpa using hv⟩
  rw [← hr, fOfInt, Int.natAbs_natCast, decide_eq_false (by omega)]

theorem temp_eq_fDiv (o : OpenParams) (raw : Half) : temp (Params.defaultWith o) raw =
    fDiv Fmt.binary32 (fOfInt Fmt.binary32 (raw.toNat : ℤ)) (.fin false 5 1) := by
  rw [← default_tempScale]; rfl

/-- R99: one rounding, since both the raw value and the scale are exact. -/
theorem temp_correctlyRounded (o : OpenParams) (raw : Half) :
    correctlyRounded false ((raw.toNat : ℚ) / 10) (temp (Params.defaultWith o) raw) := by
  obtain ⟨m, e, hr, hv⟩ := fOfInt_raw raw
  have h := fDiv_correctlyRounded false false m e 1 (m' := 5) (by norm_num)
  have hten : ((5 : ℕ) : ℚ) * 2 ^ (1 : ℤ) = 10 := by norm_num
  rw [abs_div, abs_fVal_fin, abs_fVal_fin, hv, hten] at h
  rw [temp_eq_fDiv, hr]
  exact h

/-- Settles O15: the reading is the correctly rounded tenth, which is far below the threshold of overflow. -/
theorem readingIsNearestTenth : Obligations.ReadingIsNearestTenth := by
  refine fun o => ⟨by rw [temp_eq_fDiv]; decide +kernel, fun raw => ⟨temp_correctlyRounded o raw, ?_⟩⟩
  have hraw : (raw.toNat : ℚ) < 2 ^ 16 := by exact_mod_cast raw.isLt
  obtain ⟨m, e, hr, hm, he, hnear⟩ := (temp_correctlyRounded o raw).2 (by norm_num; linarith)
  exact ⟨m, e, hr, hm, he, fun k q hk hq => (hnear k q hk hq).1⟩

end Sys2Proof.Machine

namespace Sys2Proof.Machine

/-! ### R113, R115: zero outputs -/

theorem onlyActDrawn.refl (e : Env) : onlyActDrawn e e := ⟨rfl, rfl, rfl, rfl⟩

theorem onlyActDrawn.trans {e v w : Env} (h : onlyActDrawn e v) (h' : onlyActDrawn v w) : onlyActDrawn e w := by
  obtain ⟨hrx, hnow, hspawn, hclock⟩ := h
  obtain ⟨hrx', hnow', hspawn', hclock'⟩ := h'
  exact ⟨hrx'.trans hrx, hnow'.trans hnow, hspawn'.trans hspawn, hclock'.trans hclock⟩

/-- What zeroing channel `i` does: duty 0 is commanded, a failure recorded, the channel cleared, and no more. -/
def ZeroesChan (i : Nat) (s t : State) : Prop :=
  ∃ fails v, t = { s with events := s.events ++ .duty i 0 :: fails, ch := s.ch.modify i zeroedChan, env := v } ∧
    (fails = [] ∨ fails = [.log (.dutyFailed i 0)]) ∧ onlyActDrawn s.env v

theorem ZeroesChan.ch {i : Nat} {s t : State} (h : ZeroesChan i s t) : t.ch = s.ch.modify i zeroedChan := by
  obtain ⟨_, _, rfl, _⟩ := h; rfl

theorem exitChan_zeroes (i : Nat) (s : State) : ZeroesChan i s (exitChan i s) := by
  obtain ⟨fails, v, hset, hfails, hv⟩ := setDuty_spec i 0 s
  refine ⟨fails, v, ?_, hfails, hv⟩
  rw [exitChan, hset]
  simp only [modChan, List.modify_modify_eq]
  rfl

/-- `es` holds duty 0 for each index of `l`, in order, and records of failures of these. -/
def zeroesDuties (l : List Nat) (es : List Event) : Prop :=
  es.filter (fun e => !isLog e) = l.map (fun i => Event.duty i 0) ∧
  ∀ r, Event.log r ∈ es → ∃ i ∈ l, r = .dutyFailed i 0

theorem zeroesDuties_cons {i : Nat} {l : List Nat} {fails es : List Event}
    (hfails : fails = [] ∨ fails = [.log (.dutyFailed i 0)]) (h : zeroesDuties l es) :
    zeroesDuties (i :: l) (.duty i 0 :: fails ++ es) := by
  obtain ⟨hduties, hlogs⟩ := h
  rcases hfails with rfl | rfl
  · exact ⟨congrArg (Event.duty i 0 :: ·) hduties, fun r hr => by simpa using Or.inr (hlogs r (by simpa using hr))⟩
  · refine ⟨congrArg (Event.duty i 0 :: ·) hduties, fun r hr => ?_⟩
    have hr : r = .dutyFailed i 0 ∨ .log r ∈ es := by simpa using hr
    exact hr.elim (fun h => ⟨i, List.mem_cons_self, h⟩) fun h => by simpa using Or.inr (hlogs r h)

theorem foldl_zeroes {body : Nat → State → State} (hbody : ∀ i s, ZeroesChan i s (body i s)) (l : List Nat) (s : State) :
    ∃ es chs v, l.foldl (fun t i => body i t) s = { s with events := s.events ++ es, ch := chs, env := v } ∧
      zeroesDuties l es ∧ onlyActDrawn s.env v := by
  induction l generalizing s with
  | nil => exact ⟨[], s.ch, s.env, by simp, ⟨rfl, nofun⟩, .refl _⟩
  | cons i l ih =>
    obtain ⟨fails, v, hi, hfails, hv⟩ := hbody i s
    obtain ⟨es, chs, w, hl, hes, hw⟩ := ih (body i s)
    rw [hi] at hl hw
    exact ⟨_, chs, w, by rw [List.foldl_cons, hi, hl, List.append_assoc], zeroesDuties_cons hfails hes, hv.trans hw⟩

/-- Every channel zeroed, then ready 0: R115's engine exit and R113's disabling. -/
theorem setReady_forChans_zeroes {body : Nat → State → State} (hbody : ∀ i s, ZeroesChan i s (body i s)) (s : State) :
    ∃ es v, zeroesOutputs s.chanCount es ∧ onlyActDrawn s.env v ∧ setReady false (forChans body s) =
      { s with ch := s.ch.map zeroedChan, readyOut := false, events := s.events ++ es, env := v } := by
  obtain ⟨es, chs, v, hfold, ⟨hduties, hlogs⟩, hv⟩ := foldl_zeroes hbody (List.range s.chanCount) s
  have hch : chs = s.ch.map zeroedChan := by
    have hmap := forChans_modify body zeroedChan (fun i t => (hbody i t).ch) s
    rwa [forChans, hfold] at hmap
  obtain ⟨fails, w, hready, hfails, hw⟩ := setReady_spec false (forChans body s)
  rw [forChans, hfold] at hready hw
  refine ⟨es ++ .ready false :: fails, w, ⟨?_, fun r hr => ?_⟩, hv.trans hw, ?_⟩
  · rw [List.filter_append, hduties]
    rcases hfails with rfl | rfl <;> rfl
  · rcases List.mem_append.mp hr with hr | hr
    · obtain ⟨i, hi, rfl⟩ := hlogs r hr
      exact .inl ⟨i, List.mem_range.mp hi, rfl⟩
    · rcases hfails with rfl | rfl
      · simp at hr
      · exact .inr (by simpa using hr)
  · rw [forChans, hfold, hready, hch]
    simp

/-! ### R101, R114, R115, R120, R121: the engine observes STOP -/

/-- The engine of `s` has exited in `t`, with a waiting STOP answered. -/
def Exited (s t : State) : Prop :=
  ∃ es v, zeroesOutputs s.chanCount es ∧ onlyActDrawn s.env v ∧ t = exitedState s es v

theorem exited_answerStop {s : State} (ht : s.txn = none) : Exited s (answerStop (engineExit s)) := by
  obtain ⟨es, v, hes, hv, hzero⟩ := setReady_forChans_zeroes exitChan_zeroes s
  refine ⟨es, v, hes, hv, ?_⟩
  rw [engineExit, hzero]
  cases hsw : s.stopWait <;>
    simp [answerStop, hsw, ht, exitedState, release, enterLoop, respondOk, codeByte]

/-- Neither the lock nor the transaction that is closed matters to the exit. -/
theorem exited_acquire {s : State} (o : Lock) (ht : s.txn = none) : Exited s (answerStop (engineExit (acquire o s))) :=
  exited_answerStop (s := acquire o s) ht

theorem exited_cancel (s : State) : Exited s (cancel s) := exited_answerStop (s := closeTxn s) rfl

theorem engineTop_exits {s : State} (hl : s.lock = .free) (hrun : s.running = false) (ht : s.txn = none) :
    Exited s (engineTop s) := by
  have htop : engineTop s = answerStop (engineExit (acquire .engine s)) := by simp [engineTop, hl, hrun]
  exact htop ▸ exited_acquire .engine ht

theorem pollRunning_exits_waiting {s : State} (hl : s.lock = .free) (hrun : s.running = false) (ht : s.txn = none)
    (hseq : s.seq = .wait) : Exited s (pollRunning s) := by
  have hpoll : pollRunning s = answerStop (engineExit (acquire .engine s)) := by
    simp [pollRunning, enginePollWait, ht, hseq, hl, hrun]
  exact hpoll ▸ exited_acquire .engine ht

theorem cancelled_of {s : State} {k : Nat} (hm : s.mode = .background) (hrun : s.running = false) (hseq : s.seq = .cycle k) :
    cancelled s = true := by simp [cancelled, hm, hrun, hseq]

theorem pollRunning_exits_cycle {s : State} {t : Txn} (hc : cancelled s = true) (ht : s.txn = some t) :
    Exited s (pollRunning s) := by
  have hpoll : pollRunning s = cancel s := by simp [pollRunning, ht, hc]
  exact hpoll ▸ exited_cancel s

theorem waitTimeout_exits {s : State} {t : Txn} (hc : cancelled s = true) (ht : s.txn = some t) :
    Exited s (waitTimeout s) := by
  have hwait : waitTimeout s = cancel s := by simp [waitTimeout, ht, hc]
  exact hwait ▸ exited_cancel s

theorem step_goOn {s t : State} (h : nextMove s = .goOn t) : step s = .next t := by rw [step, h]; rfl

theorem step_exits {s s' t : State} (h : nextMove s = .goOn t) (ht : Exited s' t) :
    ∃ es v, zeroesOutputs s'.chanCount es ∧ onlyActDrawn s'.env v ∧ step s = .next (exitedState s' es v) := by
  obtain ⟨es, v, hes, hv, rfl⟩ := ht
  exact ⟨es, v, hes, hv, step_goOn h⟩

/-- Settles O42: wherever the engine looks at `g.RUNNING`, it goes on to its exit. -/
theorem stopObserved : Obligations.StopObserved := by
  refine fun s hm hrun => ⟨fun rest hpoint hseq ht hl hin => ?_, fun rest k t hpoint hseq ht hin => ?_,
    fun k t hwait hseq ht hsent => ?_⟩
  · have hmove := nextMove_takesInput hpoint
    rcases hin with hin | hin
    · rw [fetchInput, hin] at hmove
      exact step_exits hmove (pollRunning_exits_waiting hl hrun ht hseq)
    · rw [fetchInput, hin] at hmove
      dsimp only at hmove
      rw [if_pos hseq] at hmove
      exact step_exits hmove (engineTop_exits hl hrun ht)
  · have hmove := nextMove_takesInput hpoint
    have hc : cancelled { s with inbox := rest } = true := cancelled_of hm hrun hseq
    rcases hin with hin | hin
    · rw [fetchInput, hin] at hmove
      exact step_exits hmove (pollRunning_exits_cycle hc ht)
    · rw [fetchInput, hin] at hmove
      exact step_exits hmove (waitTimeout_exits hc ht)
  · have hmove : nextMove s = .goOn (cancel (transmit t s)) := by
      rw [nextMove_engine hwait]
      simp [fetchEngine, ht, hsent, fetchRequest, cancelled_of hm hrun hseq]
    exact step_exits hmove (exited_cancel (transmit t s))

/-! ### R122: one channel of a cycle, the environment scripted -/

theorem setDuty_scripted {i d : Nat} {s : State} {ok : Bool} {acts : List Bool} (h : s.env.act = ok :: acts) :
    setDuty i d s = { s with
      events := s.events ++ .duty i d :: dutyLog i d ok
      ch := s.ch.modify i (fun c => { c with dutyOut := d })
      env := { s.env with act := acts } } := by
  have hdraw := drawAct_scripted (addEvent (.duty i d) s) ok acts (by simpa using h)
  simp only [setDuty, hdraw]
  cases ok <;> simp [dutyLog, modChan, logRecord, addEvent]

/-- The record of a cycle's read that gave no reading (R122). -/
def noReadingLog (k : Nat) (res : Except ResultCode F) : List Event :=
  match res with
  | .ok _ => []
  | .error e => [.log (.noReading k e)]

theorem storeReading_eq (k : Nat) (res : Except ResultCode F) (s : State) : storeReading k res s = { s with
    ch := s.ch.modify k (fun c => { c with lastReading := res.toOption })
    events := s.events ++ noReadingLog k res } := by
  cases res <;> simp [storeReading, noReadingLog, modChan, logRecord, addEvent, Except.toOption]

theorem modify_eq_set_of_getElem? {l : List Channel} {k : Nat} {c : Channel} (g : Channel → Channel) (h : l[k]? = some c) :
    l.modify k g = l.set k (g c) := by
  rw [List.modify_eq_set_getElem?, h]
  rfl

section Scripted

variable {s : State} {k : Nat} {c : Channel} {ok : Bool} {acts : List Bool}

theorem chanDone_disabled_scripted (res : Except ResultCode F) (hc : s.ch[k]? = some c) (hact : s.env.act = ok :: acts) :
    chanDone k false res s = { s with
      ch := s.ch.set k { c with lastReading := res.toOption, dutyOut := 0 }
      events := s.events ++ noReadingLog k res ++ .duty k 0 :: dutyLog k 0 ok
      env := { s.env with act := acts } } := by
  have hduty : chanDone k false res s = setDuty k 0 (storeReading k res s) := rfl
  rw [hduty, storeReading_eq, setDuty_scripted (by exact hact)]
  dsimp only
  rw [List.modify_modify_eq, modify_eq_set_of_getElem? _ hc]
  rfl

theorem actuate_scripted {d : Nat} {ds : List Nat} (hc : s.ch[k]? = some c) (hact : s.env.act = ok :: acts)
    (hnow : s.env.now = d :: ds) (r : Channel × F)
    (hr : r = compute s.par c.lastReading (advance s.par c.lastReading (s.env.clock + d) c)) :
    actuate k s = { s with
      ch := s.ch.set k { r.1 with dutyOut := quant r.2 }
      events := s.events ++ .duty k (quant r.2) :: dutyLog k (quant r.2) ok
      env := { s.env with act := acts, now := ds, clock := s.env.clock + d } } := by
  have hread := readNow_scripted s d ds hnow
  have hset : actuate k s = setDuty k (quant r.2) (modChan k (fun _ => r.1)
      { s with env := { s.env with now := ds, clock := s.env.clock + d } }) := by
    simp only [actuate, hc, hread, hr]
  rw [hset, setDuty_scripted (by exact hact), modChan_ch]
  dsimp only
  rw [List.modify_modify_eq, modify_eq_set_of_getElem? _ hc]
  rfl

theorem chanDone_enabled_scripted {d : Nat} {ds : List Nat} (res : Except ResultCode F) (hc : s.ch[k]? = some c)
    (hact : s.env.act = ok :: acts) (hnow : s.env.now = d :: ds) (c' : Channel)
    (hc' : c' = enabledChan s.par res.toOption (s.env.clock + d) c) :
    chanDone k true res s = { s with
      ch := s.ch.set k c'
      events := s.events ++ noReadingLog k res ++ .duty k c'.dutyOut :: dutyLog k c'.dutyOut ok
      env := { s.env with act := acts, now := ds, clock := s.env.clock + d } } := by
  have hduty : chanDone k true res s = actuate k (storeReading k res s) := rfl
  have hstored : (storeReading k res s).ch[k]? = some { c with lastReading := res.toOption } := by
    simp [storeReading_ch, hc]
  rw [storeReading_eq, modify_eq_set_of_getElem? _ hc] at hduty hstored
  rw [hduty, actuate_scripted hstored hact hnow _ rfl, hc']
  simp [enabledChan]

theorem enterChan_next (k : Nat) (s : State) : enterChan (k + 1) s = { s with seq := seqAfter k s.chanCount } := rfl

/-- The transaction of a cycle's read that a good answer ends. -/
theorem onAnswer_ok_cycle {t : Txn} {f : List Byte} {v : Half} (hseq : s.seq = .cycle k) (h : judge t (some f) = .ok v) :
    onAnswer t (some f) s = enterChan (k + 1) (chanDone k (s.loop == .runEn) (.ok (temp s.par v))
      { s with txn := none, events := s.events ++ [.rx f] }) := by
  simp [onAnswer, h, afterRead, hseq, closeTxn, addEvent, answerEvent, readResult]

end Scripted

theorem judge_resp3_ok {t : Txn} {a fn n : Byte} {data crc : Half} (hkind : t.kind = .resp3)
    (hcrc : crcOk (resp3Bytes a fn n data crc) = true) : judge t (some (resp3Bytes a fn n data crc)) = .ok data := by
  simp only [judge, decodeResponse, hkind, resp3, if_pos hcrc]
  simp [resp3Bytes]

/-- Settles O23: the answer is judged good, and the channel's part of the cycle is done with its reading. -/
theorem responseInCycle : Obligations.ResponseInCycle := by
  intro a fn n data crc s t k c ok acts ht hsent hlen hkind hseq hc hcrc hact
  have hexec : exec (.mbResp3 a fn n data crc) s = .next (onAnswer t (some (resp3Bytes a fn n data crc)) s) :=
    congrArg Host.Outcome.next (acceptFrame_awaited ht hsent hlen)
  rw [hexec, onAnswer_ok_cycle hseq (judge_resp3_ok hkind hcrc)]
  refine ⟨fun hloop => ?_, fun d ds hloop hnow => ?_⟩
  · rw [beq_false_of_ne hloop, chanDone_disabled_scripted _ (by exact hc) (by exact hact)]
    simp [enterChan_next, State.chanCount, noReadingLog, Except.toOption, resp3Bytes]
  · rw [hloop, beq_self_eq_true, chanDone_enabled_scripted _ (by exact hc) (by exact hact) (by exact hnow) _ rfl]
    simp [enterChan_next, State.chanCount, noReadingLog, Except.toOption, resp3Bytes]

end Sys2Proof.Machine

namespace Sys2Proof.Machine

/-! ### R105: the stage targets -/

/-- Multiplying by a power of two rounds the value with its exponent shifted. -/
theorem fMul_two_zpow (f : Fmt) (neg : Bool) (m : ℕ) (e j : ℤ) :
    fMul f (.fin neg m e) (.fin false 1 j) = fRound f neg m (e + j) := by
  simp [fMul]

theorem default_stageFrac_values :
    Params.default.stageFrac = ⟨.fin false 1 (-2), .fin false 1 (-1), .fin false 3 (-2), .fin false 1 0⟩ := by decide +kernel

/-- R105 with R9's defaults, the fractions being 1/4, 1/2, 3/4 and 1: three of the four targets round no bits of the setpoint. -/
theorem targetsOf_fin (o : OpenParams) (neg : Bool) (m : ℕ) (e : ℤ) :
    targetsOf (Params.defaultWith o) (.fin neg m e) =
      ⟨fRound Fmt.binary32 neg m (e + -2), fRound Fmt.binary32 neg m (e + -1),
        fMul Fmt.binary32 (.fin neg m e) (.fin false 3 (-2)), fRound Fmt.binary32 neg m e⟩ := by
  have hfrac : (Params.defaultWith o).stageFrac = _ := default_stageFrac_values
  have hfmt : (Params.defaultWith o).fmt = Fmt.binary32 := rfl
  simp only [targetsOf, hfrac, hfmt, fMul_two_zpow, add_zero]

/-- A finite pattern gives a zero, or a value of binary32 in its one form. -/
theorem fOfPattern_cases {x : Pattern} (h : fIsFinite (fOfPattern x) = true) :
    (∃ neg, fOfPattern x = .fin neg 0 0) ∨
      ∃ neg m e, fOfPattern x = .fin neg m e ∧ Odd m ∧ m.log2 ≤ 23 ∧ -149 ≤ e ∧ e + (m.log2 : ℕ) ≤ 127 := by
  obtain ⟨neg, ex, frac, hex, hfrac, -, hval⟩ := fOfPattern_finite h
  by_cases h0 : significand ex frac = 0
  · exact .inl ⟨neg, hval.trans (if_pos h0)⟩
  · obtain ⟨hbits, hmin, hmax, -⟩ := significand_log2 hex hfrac h0
    obtain ⟨m, j, hodd, hm, hnorm⟩ := fNorm_strip neg (lastExp ex) h0
    rw [hm, log2_mul_two_pow hodd.pos.ne'] at hbits hmax
    exact .inr ⟨neg, m, lastExp ex + j, hval.trans hnorm, hodd, by omega, by omega, by omega⟩

/-- A magnitude of 24 bits that is at least `2 ^ -124` has two exponents to spare above the least. -/
theorem exp_of_two_zpow_le {m : ℕ} {e : ℤ} (hbits : m.log2 ≤ 23) (h : (2 : ℚ) ^ (-124 : ℤ) ≤ m * 2 ^ e) : -147 ≤ e := by
  have := (zpow_lt_zpow_iff_right₀ one_lt_two).mp (h.trans_lt (lt_two_zpow_log2 m e))
  omega

/-- Settles O26: the targets of a zero are zeros; those of another setpoint shift its exponent, which stays in range. -/
theorem stageTargetsExact : Obligations.StageTargetsExact := by
  intro o x hfin
  rcases fOfPattern_cases hfin with ⟨neg, hx⟩ | ⟨neg, m, e, hx, hodd, hbits, hmin, hmax⟩
  · have hzero : targetsOf (Params.defaultWith o) (.fin neg 0 0) = ⟨.fin neg 0 0, .fin neg 0 0, .fin neg 0 0, .fin neg 0 0⟩ := by
      simp [targetsOf_fin, fRound_zero, fMul]
    rw [hx, hzero]
    refine ⟨rfl, fun _ => by simp [fVal_fin], fun neg' hneg => ?_⟩
    obtain rfl : neg = neg' := by injection hneg
    rfl
  · rw [hx, targetsOf_fin]
    refine ⟨fRound_odd neg hodd hbits hmin hmax, fun hbig => ?_, fun neg' hneg => ?_⟩
    · rw [abs_fVal_fin] at hbig
      have he := exp_of_two_zpow_le hbits hbig
      rw [fRound_odd neg hodd hbits (by omega) (by omega), fRound_odd neg hodd hbits (by omega) (by omega)]
      simp only [fVal_fin, zpow_add₀ (two_ne_zero (α := ℚ))]
      constructor <;> ring
    · obtain rfl : m = 0 := by injection hneg
      exact absurd hodd (by decide)

end Sys2Proof.Machine

namespace Sys2Proof.Machine

/-! ### R106: stage advancement -/

theorem nextStage_val (k : Fin 4) : (nextStage k).val = min (k.val + 1) 3 := by
  fin_cases k <;> rfl

section Advance

variable {p : Params} {c : Channel} {x : F} {t now : Nat}

theorem advance_absent (p : Params) (now : Nat) (c : Channel) : advance p none now c = { c with holdSince := none } := rfl

theorem advance_outside (h : inTolerance p c x = false) : advance p (some x) now c = { c with holdSince := none } := by
  simp [advance, h]

theorem advance_first (h : inTolerance p c x = true) (hhold : c.holdSince = none) :
    advance p (some x) now c = { c with holdSince := some now } := by
  simp [advance, h, hhold]

theorem advance_before (h : inTolerance p c x = true) (hhold : c.holdSince = some t) (hlt : now - t < p.holdMs) :
    advance p (some x) now c = c := by
  simp [advance, h, hhold, hlt]

theorem advance_elapsed (h : inTolerance p c x = true) (hhold : c.holdSince = some t) (hle : p.holdMs ≤ now - t) :
    advance p (some x) now c = { c with stage := nextStage c.stage, holdSince := none } := by
  simp [advance, h, hhold, hle]

/-- A running hold lasts through every sample that comes before its time is over. -/
theorem foldl_advance_before (h : inTolerance p c x = true) (hhold : c.holdSince = some t) (ts : List Nat)
    (hts : ∀ u ∈ ts, u - t < p.holdMs) : ts.foldl (fun c u => advance p (some x) u c) c = c := by
  induction ts with
  | nil => rfl
  | cons u us ih =>
    obtain ⟨hu, hus⟩ := List.forall_mem_cons.mp hts
    rw [List.foldl_cons, advance_before h hhold hu]
    exact ih hus

end Advance

/-- Settles O27: the first sample starts the hold, the samples before its end keep it, and the one after that is a single step. -/
theorem holdThenAdvance : Obligations.HoldThenAdvance := by
  intro p c x t0 ts htol hnone hts
  have hin : inTolerance p { c with holdSince := some t0 } x = true := htol
  have hrun : (t0 :: ts).foldl (fun c u => advance p (some x) u c) c = { c with holdSince := some t0 } := by
    rw [List.foldl_cons, advance_first htol hnone]
    exact foldl_advance_before hin rfl ts fun u hu => by have := hts u hu; omega
  rw [hrun]
  refine ⟨rfl, fun t ht => ⟨nextStage c.stage, nextStage_val c.stage, advance_elapsed hin rfl (by omega)⟩, fun mo t hmo => ?_⟩
  cases mo with
  | none => exact advance_absent p t _
  | some y => exact advance_outside (hmo y rfl)

end Sys2Proof.Machine

namespace Sys2Proof.Machine

/-! ### R107: stage snap -/

theorem snapStage_reached (q : Quad) (r : F) : snapStage q r = 0 ∨ fLe (stageOf q (snapStage q r)) r = true := by
  unfold snapStage
  split
  · next h3 => exact .inr h3
  · split
    · next h2 => exact .inr h2
    · split
      · next h1 => exact .inr h1
      · exact .inl rfl

/-- The stages are tried from the highest down, so that none above the one taken is reached. -/
theorem le_snapStage {q : Quad} {r : F} {j : Fin 4} (h : fLe (stageOf q j) r = true) : j ≤ snapStage q r := by
  unfold snapStage
  fin_cases j
  · exact Fin.zero_le _
  · have h1 : fLe q.q1 r = true := h
    rw [if_pos h1]
    split
    · decide
    · split <;> decide
  · have h2 : fLe q.q2 r = true := h
    rw [if_pos h2]
    split <;> decide
  · have h3 : fLe q.q3 r = true := h
    rw [if_pos h3]
    decide

/-- Settles O28: without a reading the stage is 0, else it is the one that `snapStage` takes. -/
theorem snapTakesHighestStage : Obligations.SnapTakesHighestStage := by
  intro c
  cases hread : c.lastReading with
  | none => exact ⟨0, by simp [snap, hread], fun _ => rfl, nofun⟩
  | some r =>
    refine ⟨snapStage c.stageT r, by simp [snap, hread], nofun, fun r' hr => ?_⟩
    obtain rfl := Option.some.inj hr
    exact ⟨snapStage_reached c.stageT r, fun _ => le_snapStage⟩

end Sys2Proof.Machine

namespace Sys2Proof.Machine

/-! ### R108, R109: the clamp and the output law -/

section Clamp

variable {x lo hi : F}

theorem clamp_of_nan (h : fIsNan x = true) : clamp x lo hi = lo := if_pos h

theorem clamp_of_lt (h : fLt x lo = true) : clamp x lo hi = lo := by simp [clamp, h]

theorem fIsNan_of_fLt (h : fLt hi x = true) : fIsNan x = false := by
  cases x with
  | nan => simp [fLt, fIsNan] at h
  | inf | fin => rfl

theorem clamp_of_gt (hlo : fLt x lo = false) (h : fLt hi x = true) : clamp x lo hi = hi := by
  simp [clamp, fIsNan_of_fLt h, hlo, h]

theorem clamp_of_between (hnan : fIsNan x = false) (hlo : fLt x lo = false) (hhi : fLt hi x = false) : clamp x lo hi = x := by
  simp [clamp, hnan, hlo, hhi]

end Clamp

theorem integral_deadband {p : Params} {i e : F} (h : fLt (fAbs e) p.deadband = true) : integral p i e = .zero := if_pos h

theorem integral_outside {p : Params} {i e : F} (h : fLt (fAbs e) p.deadband = false) :
    integral p i e = clamp (fAdd p.fmt i e) (fNeg p.iLim) p.iLim := by simp [integral, h]

/-- R108 with R9's defaults: an output lies between +0.0 and `P_OUT_MAX`. -/
theorem output_bounds (o : OpenParams) (u : F) :
    fLe .zero (clamp u .zero (Params.defaultWith o).outMax) = true ∧
      fLe (clamp u .zero (Params.defaultWith o).outMax) (Params.defaultWith o).outMax = true := by
  have hmax : (Params.defaultWith o).outMax = .fin false 25 2 := default_outMax
  rw [hmax]
  exact clamp_bounds u rfl rfl (by decide) (by decide) (by decide)

/-- R109: every output is one that the clamp gives, +0.0 without a reading among them. -/
theorem compute_output_eq_clamp (o : OpenParams) (mo : Option F) (c : Channel) :
    ∃ u, (compute (Params.defaultWith o) mo c).2 = clamp u .zero (Params.defaultWith o).outMax := by
  cases mo with
  | none => exact ⟨.nan, (clamp_of_nan rfl).symm⟩
  | some x => exact ⟨_, rfl⟩

/-- Settles O29: the law is the definition of `compute`, and both of its results are clamped. -/
theorem computeStaysInBounds : Obligations.ComputeStaysInBounds := by
  refine ⟨fun p c => ⟨rfl, ?_⟩, fun x lo hi => ⟨clamp_of_nan, clamp_of_lt, clamp_of_gt, clamp_of_between⟩, fun o mo c => ?_⟩
  · rintro x e rfl
    exact ⟨integral p c.iAcc _, _, rfl, integral_deadband, integral_outside, rfl⟩
  · obtain ⟨u, hu⟩ := compute_output_eq_clamp o mo c
    rw [hu]
    refine ⟨(output_bounds o u).1, (output_bounds o u).2, quant_output_le o u, ?_⟩
    rintro x rfl
    exact integral_bounds o c.iAcc _

end Sys2Proof.Machine

namespace Sys2Proof.Machine

/-! ### R110: readiness -/

theorem chanReady_iff (p : Params) (c : Channel) : chanReady p c = true ↔
    ∃ r, c.lastReading = some r ∧ fLe (fMul p.fmt p.readyLo c.sp) r = true ∧ fLe r (fMul p.fmt p.readyHi c.sp) = true := by
  unfold chanReady
  cases c.lastReading with
  | none => simp
  | some r => simp

/-- Settles O31: readiness asks every channel, and no channel's answer reads its stage. -/
theorem readinessRule : Obligations.ReadinessRule := by
  intro p chs
  constructor
  · simp only [readiness, List.all_eq_true, chanReady_iff]
  · intro g
    have hstage (c : Channel) : chanReady p { c with stage := g c } = chanReady p c := rfl
    simp only [readiness, List.all_map, Function.comp_def, hstage]

end Sys2Proof.Machine

namespace Sys2Proof.Machine

/-! ### R112, R113, R117, R118: the commands that run with the lock held -/

/-- An answer does not move a free lock: taking it, answering and releasing it leaves the answer alone. -/
theorem released_raise {s : State} (e : ResultCode) (hl : s.lock = .free) : release (raise e (acquire .host s)) = raise e s := by
  cases s
  cases hl
  rfl

theorem released_respondOk {s : State} (d : List Byte) (hl : s.lock = .free) :
    release (respondOk d (acquire .host s)) = respondOk d s := by
  cases s
  cases hl
  rfl

/-- Settles O37: operands that are legal make the command well-formed, and its body runs under the lock; any other makes it
ill-formed. -/
theorem setGainsCommand : Obligations.SetGainsCommand := by
  refine fun s ch kp ki kd hl => ⟨fun hch hkp hki hkd => ?_, fun h => ?_⟩
  · refine (exec_free rfl (by simp [Instr.wellFormed, legalChan, legalF, hch, hkp, hki, hkd]) hl).trans ?_
    cases s
    cases hl
    rfl
  · refine exec_illFormed rfl ?_
    rcases h with h | h | h | h <;> simp [Instr.wellFormed, legalChan, legalF, h]

/-- Settles O38: as for the gains; the targets are those of the new setpoint (R105). -/
theorem setSetpointCommand : Obligations.SetSetpointCommand := by
  refine fun s ch x hl => ⟨fun hch hx => ?_, fun h => ?_⟩
  · refine (exec_free rfl (by simp [Instr.wellFormed, legalChan, legalF, hch, hx]) hl).trans ?_
    cases s
    cases hl
    rfl
  · refine exec_illFormed rfl ?_
    rcases h with h | h <;> simp [Instr.wellFormed, legalChan, legalF, h]

/-- The draw of a background context reads and writes the environment only (R112, I8). -/
theorem drawSpawn_of_env_eq {s t : State} (h : t.env = s.env) :
    drawSpawn t = ((drawSpawn s).1, { t with env := (drawSpawn s).2.env }) := by
  unfold drawSpawn
  rw [h]
  split <;> rfl

theorem startBody_refused {s : State} (h : s.loop ≠ .idle) : startBody s = raise .wrongState s := if_neg h

/-- From IDLE the draw settles the mode and the engine's place, and nothing else. -/
theorem startBody_idle {s : State} (h : s.loop = .idle) : startBody s = { s with
    loop := .runDis
    enabled := false
    running := true
    mode := if (drawSpawn s).1 then .background else .caller
    seq := if (drawSpawn s).1 then .wait else .stopped
    env := (drawSpawn s).2.env
    replies := s.replies ++ [[0x00]] } := by
  have hdraw := drawSpawn_of_env_eq (s := s) (t := { enterLoop .runDis s with running := true }) rfl
  rw [startBody, if_pos h, hdraw]
  cases (drawSpawn s).1 <;> rfl

theorem exec_start_free {s : State} (hl : s.lock = .free) :
    exec .start s = .next (release (startBody (acquire .host s))) := withLock_free .start startBody s hl

/-- Settles O32: the body under the lock, by the state of the loop. -/
theorem startCommand : Obligations.StartCommand := by
  refine fun s hl => ⟨fun hloop => ?_, fun hloop => ?_⟩
  · have hdraw := drawSpawn_of_env_eq (s := s) (t := acquire .host s) rfl
    rw [exec_start_free hl, startBody_idle (s := acquire .host s) hloop, hdraw]
    cases s
    cases hl
    rfl
  · rw [exec_start_free hl, startBody_refused (s := acquire .host s) hloop, released_raise .wrongState hl]
    rfl

/-! ### R113: ENABLE -/

theorem disableChan_zeroes (i : Nat) (s : State) : ZeroesChan i s (disableChan i s) := by
  obtain ⟨fails, v, hset, hfails, hv⟩ := setDuty_spec i 0 (modChan i clearPid s)
  refine ⟨fails, v, ?_, hfails, hv⟩
  rw [disableChan, hset]
  simp only [modChan, List.modify_modify_eq]
  rfl

theorem loopRuns_eq_false {s : State} (h : s.loop = .idle ∨ s.loop = .terminated) : loopRuns s = false := by
  rcases h with h | h <;> simp [loopRuns, h]

/-- The loop takes STOP and ENABLE in no other state (R113, R114). -/
theorem not_loopRuns_and_running {s : State} (h : s.loop = .idle ∨ s.loop = .terminated ∨ s.running = false) :
    ¬ (loopRuns s = true ∧ s.running = true) := by
  rintro ⟨hloop, hrun⟩
  rw [← or_assoc] at h
  rcases h with h | h
  · rw [loopRuns_eq_false h] at hloop
    cases hloop
  · rw [h] at hrun
    cases hrun

section Enable

variable {s : State}

theorem enableBody_refused (b : Byte) (h : ¬ (loopRuns s = true ∧ s.running = true)) :
    enableBody b s = raise .wrongState s := if_neg h

/-- The state of control asked for is the one at hand (D17). -/
theorem enableBody_unchanged {b : Byte} (h : loopRuns s = true ∧ s.running = true) (h1 : ¬ (b = 1 ∧ s.loop = .runDis))
    (h0 : ¬ (b = 0 ∧ s.loop = .runEn)) : enableBody b s = respondOk [] s := by
  rw [enableBody, if_pos h, if_neg h1, if_neg h0]

theorem enableBody_enables (h : s.loop = .runDis) (hrun : s.running = true) :
    enableBody 1 s = respondOk [] (enterLoop .runEn { s with ch := s.ch.map enableChan }) := by
  simp [enableBody, loopRuns, h, hrun]

theorem enableBody_disables (h : s.loop = .runEn) (hrun : s.running = true) :
    enableBody 0 s = respondOk [] (enterLoop .runDis (setReady false (forChans disableChan s))) := by
  simp [enableBody, loopRuns, h, hrun]

/-- With the lock free ENABLE with a legal flag is its body under the lock. -/
theorem exec_enable_free {b : Byte} (hb : b = 0 ∨ b = 1) (hl : s.lock = .free) :
    exec (.enable b) s = .next (release (enableBody b (acquire .host s))) :=
  exec_free (i := .enable b) rfl (by rcases hb with rfl | rfl <;> rfl) hl

/-- ENABLE that asks for the state of control at hand only answers. -/
theorem exec_enable_unchanged {b : Byte} (hb : b = 0 ∨ b = 1) (hl : s.lock = .free)
    (h : loopRuns s = true ∧ s.running = true) (h1 : ¬ (b = 1 ∧ s.loop = .runDis)) (h0 : ¬ (b = 0 ∧ s.loop = .runEn)) :
    exec (.enable b) s = .next (respondOk [] s) := by
  rw [exec_enable_free hb hl, enableBody_unchanged (s := acquire .host s) h h1 h0, released_respondOk [] hl]

end Enable

/-- Settles O33: the two changes of control, by the body under the lock; the state at hand asked for again; and the refusals. -/
theorem enableCommand : Obligations.EnableCommand := by
  refine fun s hl => ⟨fun hloop hrun => ⟨?_, ?_⟩, fun hloop hrun => ⟨?_, ?_⟩, fun h b hb => ?_, fun b h0 h1 => ?_⟩
  · rw [exec_enable_free (.inr rfl) hl, enableBody_enables (s := acquire .host s) hloop hrun]
    cases s
    cases hl
    rfl
  · exact exec_enable_unchanged (.inl rfl) hl ⟨(loopRuns_iff s).mpr (.inl hloop), hrun⟩ (by simp) (by simp [hloop])
  · exact exec_enable_unchanged (.inr rfl) hl ⟨(loopRuns_iff s).mpr (.inr hloop), hrun⟩ (by simp [hloop]) (by simp)
  · obtain ⟨es, v, hes, hv, hzero⟩ := setReady_forChans_zeroes disableChan_zeroes (acquire .host s)
    refine ⟨es, v, hes, hv, ?_⟩
    rw [exec_enable_free (.inl rfl) hl, enableBody_disables (s := acquire .host s) hloop hrun, hzero]
    cases s
    cases hl
    rfl
  · rw [exec_enable_free hb hl, enableBody_refused (s := acquire .host s) b (not_loopRuns_and_running h),
      released_raise .wrongState hl]
    rfl
  · exact exec_illFormed rfl (by simpa [Instr.wellFormed, legalFlag] using And.intro h0 h1)

/-! ### R114: STOP and its grace period -/

/-- The engine exit of the host context, and its answer (R114, R115). -/
theorem callerExit_zeroes (s : State) : ∃ es v, zeroesOutputs s.chanCount es ∧ onlyActDrawn s.env v ∧
    callerExit s = { s with
      ch := s.ch.map zeroedChan
      readyOut := false
      loop := .terminated
      enabled := false
      seq := .stopped
      lock := .free
      events := s.events ++ es
      env := v
      replies := s.replies ++ [[0x00]] } := by
  obtain ⟨es, v, hes, hv, hzero⟩ := setReady_forChans_zeroes exitChan_zeroes (acquire .host s)
  refine ⟨es, v, hes, hv, ?_⟩
  rw [callerExit, engineExit, hzero]
  rfl

/-- Settles O34: by the mode, and in background mode by whether the engine still exists. -/
theorem stopCommand : Obligations.StopCommand := by
  refine fun s => ⟨fun hloop hrun => ?_, fun h => if_neg (not_loopRuns_and_running h)⟩
  have hruns : loopRuns s = true ∧ s.running = true := ⟨(loopRuns_iff s).mpr hloop, hrun⟩
  refine ⟨fun hmode hl => ?_, fun hmode hseq => ?_, fun hmode hseq => ?_⟩
  · obtain ⟨es, v, hes, hv, hexit⟩ := callerExit_zeroes { s with running := false }
    have hexec : exec .stop s = .next (callerExit { s with running := false }) := by
      simp [exec, execStop, hruns, hmode, hl]
    refine ⟨es, v, hes, hv, ?_⟩
    rw [hexec, hexit]
    cases s
    cases hl
    rfl
  · simp [exec, execStop, hruns, hmode, hseq]
  · simp [exec, execStop, hruns, hmode, hseq, respondOk, codeByte]

/-- Settles O43: the end of the grace period is the next input, and a STOP waits. -/
theorem graceExpiryAnswered : Obligations.GraceExpiryAnswered := by
  intro s rest hpoint hin hwaits
  have hmove : fetchInput s = .goOn (graceExpired { s with inbox := rest }) := by rw [fetchInput, hin]
  have hexpired : graceExpired { s with inbox := rest } = raise .stopGraceExpired { s with inbox := rest, stopWait := false } :=
    if_pos hwaits
  rw [step_goOn ((nextMove_takesInput hpoint).trans hmove), hexpired]
  rfl

end Sys2Proof.Machine

namespace Sys2Proof.Machine

/-! ### R120, R121: the background engine enters, runs and ends a cycle -/

theorem setReady_scripted {b ok : Bool} {s : State} {acts : List Bool} (h : s.env.act = ok :: acts) :
    setReady b s = { s with
      events := s.events ++ .ready b :: readyLog b ok
      readyOut := b
      env := { s.env with act := acts } } := by
  have hdraw := drawAct_scripted (addEvent (.ready b) s) ok acts h
  simp only [setReady, hdraw]
  cases ok <;> simp [readyLog, logRecord, addEvent]

/-- R121 after the last channel, the driver's answer scripted. -/
theorem finishCycle_scripted {ok rdy : Bool} {s : State} {acts : List Bool} (next : Seq) (h : s.env.act = ok :: acts)
    (hrdy : rdy = (s.loop == .runEn && readiness s.par s.ch)) : finishCycle next s = { s with
      readyOut := rdy
      events := s.events ++ .ready rdy :: readyLog rdy ok
      seq := next
      lock := .free
      env := { s.env with act := acts } } := by
  rw [finishCycle, ← hrdy, setReady_scripted h]
  rfl

/-- Settles O41: the engine's move at a cycle start and past the last channel. -/
theorem cycleStartAndEnd : Obligations.CycleStartAndEnd := by
  refine fun s ht => ⟨fun rest hseq hl hwait hrun hn hin => ?_, fun ok acts rdy hseq hl hact hrdy => ?_⟩
  · have hpoint : takesInput s := ⟨.inl hwait, by simp [ht, hseq]⟩
    have hmove : fetchInput s = .goOn (engineTop { s with inbox := rest }) := by simp [fetchInput, hin, hseq]
    have htop : engineTop { s with inbox := rest } = { s with inbox := rest, lock := .engine, seq := .cycle 0 } := by
      simp [engineTop, hl, hrun, enterChan, acquire, State.chanCount, List.length_pos_iff.mp hn]
    rw [step_goOn ((nextMove_takesInput hpoint).trans hmove), htop]
  · have hmove : fetchEngine s = .goOn (finishCycle .wait s) := by simp [fetchEngine, ht, hseq]
    rw [step_goOn ((nextMove_engine (.inr (by simp [hl]))).trans hmove), finishCycle_scripted .wait hact hrdy]

/-- At a channel with no transaction open the engine opens the channel's read (R102). -/
theorem step_startRead {s : State} {k : Nat} {c : Channel} (hwait : s.waiting = [] ∨ s.lock ≠ .free) (ht : s.txn = none)
    (hseq : s.seq = .cycle k) (hc : s.ch[k]? = some c) : step s = .next { s with txn := some (readTxn s.par c.addr) } := by
  have hmove : fetchEngine s = .goOn (startRead k s) := by simp [fetchEngine, ht, hseq]
  rw [step_goOn ((nextMove_engine hwait).trans hmove), startRead, hc]
  rfl

/-- The engine transmits the read request that it has opened, unless it sees STOP. -/
theorem step_transmitRead {s : State} {a : Byte} (hwait : s.waiting = [] ∨ s.lock ≠ .free)
    (hgo : s.mode ≠ .background ∨ s.running = true) (ht : s.txn = some (readTxn s.par a)) :
    step s = .next { s with
      rxbuf := []
      txn := some { readTxn s.par a with sent := true }
      events := s.events ++ [.tx (req3 a s.par.regTemp)] } := by
  obtain ⟨-, hrequest, -⟩ := stepRunsDecoded s
  obtain ⟨hemit, -⟩ := requestEmitted a s
  exact (hrequest _ _ hwait hgo ht rfl (decode_req3 a s.par.regTemp)).trans (hemit _ _ ht rfl)

/-- Settles O22: one step opens the channel's read, the next one transmits its request. -/
theorem engineReadsChannel : Obligations.EngineReadsChannel := by
  intro s k c hwait hgo ht hseq hc
  have hopen := step_startRead hwait ht hseq hc
  have hsend := step_transmitRead (s := { s with txn := some (readTxn s.par c.addr) }) hwait hgo rfl
  simp only [stepN, hopen, hsend]
  rfl

end Sys2Proof.Machine

namespace Sys2Proof.Machine

/-! ### R124, R125: the output commands that an operation adds to the history -/

theorem dutyEvents_append (es es' : List Event) : dutyEvents (es ++ es') = dutyEvents es ++ dutyEvents es' :=
  List.filterMap_append

theorem readyEvents_append (es es' : List Event) : readyEvents (es ++ es') = readyEvents es ++ readyEvents es' :=
  List.filterMap_append

/-- Between `s` and `t` the history has gained the duty commands `ds` and the ready commands `rs`, in order. -/
def Commands (s t : State) (ds : List (Nat × Nat)) (rs : List Bool) : Prop :=
  ∃ es, t.events = s.events ++ es ∧ dutyEvents es = ds ∧ readyEvents es = rs

/-- No output command is in the history of `t` beyond that of `s`. -/
abbrev Commandless (s t : State) : Prop := Commands s t [] []

theorem Commandless.of_events {s t : State} (h : t.events = s.events) : Commandless s t := ⟨[], by simpa using h, rfl, rfl⟩

theorem Commands.trans {s t u : State} {ds ds' : List (Nat × Nat)} {rs rs' : List Bool} (h : Commands s t ds rs)
    (h' : Commands t u ds' rs') : Commands s u (ds ++ ds') (rs ++ rs') := by
  obtain ⟨es, ht, rfl, rfl⟩ := h
  obtain ⟨es', hu, rfl, rfl⟩ := h'
  exact ⟨es ++ es', by rw [hu, ht, List.append_assoc], dutyEvents_append es es', readyEvents_append es es'⟩

theorem setDuty_commands (i d : Nat) (s : State) : Commands s (setDuty i d s) [(i, d)] [] := by
  obtain ⟨fails, v, hset, hfails, -⟩ := setDuty_spec i d s
  refine ⟨.duty i d :: fails, by rw [hset], ?_⟩
  rcases hfails with rfl | rfl <;> exact ⟨rfl, rfl⟩

theorem setReady_commands (b : Bool) (s : State) : Commands s (setReady b s) [] [b] := by
  obtain ⟨fails, v, hset, hfails, -⟩ := setReady_spec b s
  refine ⟨.ready b :: fails, by rw [hset], ?_⟩
  rcases hfails with rfl | rfl <;> exact ⟨rfl, rfl⟩

/-- The bus is no output: an attempt commands nothing, whatever it is answered. -/
theorem attemptOnce_commandless (t : Txn) (s : State) : Commandless s (attemptOnce t s).2 := by
  refine ⟨[.tx t.req, answerEvent (rxExact t.len (transmit t s)).1], by simp [attemptOnce], ?_⟩
  cases (rxExact t.len (transmit t s)).1 <;> exact ⟨rfl, rfl⟩

theorem recover_commandless (t : Txn) (c : Cause) (s : State) : Commandless s (recover t c s) :=
  ⟨_, recover_events t c s, rfl, rfl⟩

theorem closeTxn_commandless (s : State) : Commandless s (closeTxn s) := .of_events rfl

theorem runAttempts_commandless (more : Nat) (t : Txn) (s : State) : Commandless s (runAttempts more t s).2 := by
  have honce := attemptOnce_commandless t s
  induction more generalizing t s with
  | zero =>
    unfold runAttempts
    split
    · next h => rw [h] at honce; exact honce.trans (closeTxn_commandless _)
    · next h => rw [h] at honce; exact (honce.trans (recover_commandless t _ _)).trans (closeTxn_commandless _)
  | succ more ih =>
    unfold runAttempts
    split
    · next h => rw [h] at honce; exact honce.trans (closeTxn_commandless _)
    · next h =>
      rw [h] at honce
      exact (honce.trans (recover_commandless t _ _)).trans (ih _ _ (attemptOnce_commandless _ _))

theorem readTemperature_commandless (a : Byte) (s : State) : Commandless s (readTemperature a s).2 :=
  runAttempts_commandless _ _ s

theorem storeReading_commandless (k : Nat) (res : Except ResultCode F) (s : State) :
    Commandless s (storeReading k res s) := by
  refine ⟨noReadingLog k res, by rw [storeReading_eq], ?_⟩
  cases res <;> exact ⟨rfl, rfl⟩

/-! ### R121, R122, R124: one channel of a caller-mode cycle -/

/-- The duty lanes: each channel's place with its recorded duty (R26). -/
def State.lanes (s : State) : List (Nat × Nat) := s.ch.mapIdx fun i c => (i, c.dutyOut)

/-- Between `s` and `t` channel `k` has been commanded the duty `d` and records it; the other lanes are as they were. -/
structure DrivesLane (k d : Nat) (s t : State) : Prop where
  commands : Commands s t [(k, d)] []
  lanes : t.lanes = s.lanes.set k (k, d)

theorem lanes_length (s : State) : s.lanes.length = s.chanCount := List.length_mapIdx

theorem lanes_of_ch {s t : State} (h : t.ch = s.ch) : t.lanes = s.lanes := by rw [State.lanes, h]; rfl

theorem setDuty_lanes (k d : Nat) (s : State) : (setDuty k d s).lanes = s.lanes.set k (k, d) := by
  apply List.ext_getElem?
  intro i
  simp only [State.lanes, setDuty_ch, List.getElem?_set, List.getElem?_mapIdx, List.getElem?_modify, List.length_mapIdx]
  by_cases hik : k = i
  · subst hik
    by_cases hk : k < s.ch.length <;> simp [hk]
  · simp [hik]

/-- Rewriting channel `k` touches no lane but its own. -/
theorem lanes_set_of_modify {k : Nat} {g : Channel → Channel} {s t : State} (h : t.ch = s.ch.modify k g) (x : Nat × Nat) :
    t.lanes.set k x = s.lanes.set k x := by
  apply List.ext_getElem?
  intro i
  simp only [State.lanes, h, List.getElem?_set, List.getElem?_mapIdx, List.getElem?_modify, List.length_mapIdx,
    List.length_modify]
  by_cases hik : k = i <;> simp [hik]

theorem setDuty_drivesLane (k d : Nat) (s : State) : DrivesLane k d s (setDuty k d s) :=
  ⟨setDuty_commands k d s, setDuty_lanes k d s⟩

/-- What comes before, if it commands no output and touches no other lane, does not matter. -/
theorem DrivesLane.after {k d : Nat} {g : Channel → Channel} {s s' t : State} (h : DrivesLane k d s' t)
    (hs : Commandless s s') (hch : s'.ch = s.ch.modify k g) : DrivesLane k d s t :=
  ⟨hs.trans h.commands, h.lanes.trans (lanes_set_of_modify hch _)⟩

theorem actuate_drivesLane {k : Nat} {s : State} (hk : k < s.chanCount) : ∃ d, DrivesLane k d s (actuate k s) := by
  have hc : s.ch[k]? = some s.ch[k] := List.getElem?_eq_getElem hk
  have hactuate : ∃ c' d, actuate k s = setDuty k d (modChan k (fun _ => c') (readNow s).2) := ⟨_, _, by rw [actuate, hc]⟩
  obtain ⟨c', d, hd⟩ := hactuate
  exact ⟨d, hd ▸ (setDuty_drivesLane k d _).after (.of_events (by simp)) (by rw [modChan_ch, readNow_ch])⟩

/-- A channel's part of a cycle drives its lane; to 0 while control is disabled. -/
theorem chanDone_drivesLane {k : Nat} {s : State} (en : Bool) (res : Except ResultCode F) (hk : k < s.chanCount) :
    ∃ d, DrivesLane k d s (chanDone k en res s) ∧ (en = false → d = 0) := by
  have hread := storeReading_commandless k res s
  have hch := storeReading_ch k res s
  cases en with
  | false => exact ⟨0, (setDuty_drivesLane k 0 (storeReading k res s)).after hread hch, fun _ => rfl⟩
  | true =>
    have hk' : k < (storeReading k res s).chanCount := by simpa [State.chanCount, hch] using hk
    obtain ⟨d, hd⟩ := actuate_drivesLane hk'
    exact ⟨d, hd.after hread hch, nofun⟩

theorem callerChan_drivesLane {k : Nat} {s : State} (en : Bool) (hk : k < s.chanCount) :
    ∃ d, DrivesLane k d s (callerChan en k s) ∧ (en = false → d = 0) := by
  have hc : s.ch[k]? = some s.ch[k] := List.getElem?_eq_getElem hk
  have hread := readTemperature_commandless s.ch[k].addr { s with seq := .cycle k }
  have hch : (readTemperature s.ch[k].addr { s with seq := .cycle k }).2.ch = s.ch := readTemperature_ch _ _
  obtain ⟨d, hd, h0⟩ := chanDone_drivesLane en (readTemperature s.ch[k].addr { s with seq := .cycle k }).1
    (s := (readTemperature s.ch[k].addr { s with seq := .cycle k }).2) (k := k) (by simpa [State.chanCount, hch] using hk)
  refine ⟨d, ?_, h0⟩
  rw [callerChan, hc]
  exact hd.after (g := id) hread (by rw [hch, List.modify_id])

/-! ### R116, R121: the whole cycle -/

theorem take_succ_set {α : Type} {l : List α} {m : Nat} (x : α) (hm : m < l.length) :
    (l.set m x).take (m + 1) = l.take m ++ [x] := by
  simp [List.take_add_one, List.take_set_of_le, hm]

/-- The first `m` channels have been driven between `s` and `t`: the commands are their lanes, in order; zeros while control is
disabled. -/
structure DrivesLanes (en : Bool) (m : Nat) (s t : State) : Prop where
  count : t.chanCount = s.chanCount
  commands : Commands s t (t.lanes.take m) []
  zeros : en = false → ∀ x ∈ t.lanes.take m, x.2 = 0

theorem DrivesLanes.next {en : Bool} {m d : Nat} {s t u : State} (h : DrivesLanes en m s t) (hm : m < s.chanCount)
    (hd : DrivesLane m d t u) (h0 : en = false → d = 0) : DrivesLanes en (m + 1) s u := by
  have hlen : m < t.lanes.length := by rwa [lanes_length, h.count]
  have htake : u.lanes.take (m + 1) = t.lanes.take m ++ [(m, d)] := by rw [hd.lanes, take_succ_set _ hlen]
  refine ⟨?_, htake ▸ h.commands.trans hd.commands, fun hen => ?_⟩
  · rw [← lanes_length, hd.lanes, List.length_set, lanes_length, h.count]
  · rw [htake]
    exact List.forall_mem_append.mpr ⟨h.zeros hen, List.forall_mem_singleton.mpr (h0 hen)⟩

theorem foldl_callerChan_drivesLanes (en : Bool) (s : State) {m : Nat} (hm : m ≤ s.chanCount) :
    DrivesLanes en m s ((List.range m).foldl (fun t k => callerChan en k t) s) := by
  induction m with
  | zero => exact ⟨rfl, Commandless.of_events rfl, by simp⟩
  | succ m ih =>
    have hdriven := ih (by omega)
    obtain ⟨d, hd, h0⟩ := callerChan_drivesLane en (Nat.lt_of_lt_of_eq hm hdriven.count.symm)
    rw [List.range_succ, List.foldl_append]
    exact hdriven.next hm hd h0

theorem DrivesLanes.all {en : Bool} {s t : State} (h : DrivesLanes en s.chanCount s t) :
    Commands s t t.lanes [] ∧ (en = false → ∀ x ∈ t.lanes, x.2 = 0) := by
  have htake : t.lanes.take s.chanCount = t.lanes := List.take_of_length_le (by rw [lanes_length, h.count])
  exact ⟨htake ▸ h.commands, htake ▸ h.zeros⟩

theorem finishCycle_commands (q : Seq) (s : State) : Commands s (finishCycle q s) [] [(finishCycle q s).readyOut] :=
  setReady_commands _ s

/-- A whole cycle commands every lane once, in order, then the ready bit. -/
theorem callerCycle_commands (s : State) : Commands s (callerCycle s) (callerCycle s).lanes [(callerCycle s).readyOut] ∧
    (s.loop ≠ .runEn → ∀ x ∈ (callerCycle s).lanes, x.2 = 0) := by
  obtain ⟨hduties, hzero⟩ := (foldl_callerChan_drivesLanes (s.loop == .runEn) (acquire .host s) le_rfl).all
  have hready := finishCycle_commands .stopped { forChans (callerChan (s.loop == .runEn)) (acquire .host s) with seq := .finish }
  have hlanes : (callerCycle s).lanes = (forChans (callerChan (s.loop == .runEn)) (acquire .host s)).lanes :=
    lanes_of_ch (finishCycle_ch .stopped _)
  rw [hlanes]
  refine ⟨?_, fun hloop => hzero (beq_false_of_ne hloop)⟩
  have hcommands := hduties.trans hready
  rwa [List.append_nil] at hcommands

/-- The ready bit is that of the channels as the cycle leaves them (R125). -/
theorem callerCycle_readyOut (s : State) :
    (callerCycle s).readyOut = (s.loop == .runEn && readiness (callerCycle s).par (callerCycle s).ch) := by
  have hloop : (forChans (callerChan (s.loop == .runEn)) (acquire .host s)).loop = s.loop :=
    forChans_keeps State.loop _ (callerChan_loop _) (acquire .host s)
  have hfinish : (callerCycle s).readyOut = ((forChans (callerChan (s.loop == .runEn)) (acquire .host s)).loop == .runEn &&
      readiness (callerCycle s).par (callerCycle s).ch) := by
    simp [callerCycle, finishCycle]
  rw [hfinish, hloop]

theorem exec_stepCycle {s : State} (hmode : s.mode = .caller) (hloop : s.loop = .runDis ∨ s.loop = .runEn)
    (hrun : s.running = true) (hl : s.lock = .free) : exec .stepCycle s = .next (respondOk [] (callerCycle s)) := by
  simp [exec, execStepCycle, hmode, (loopRuns_iff s).mpr hloop, hrun, hl]

/-- Settles O36: by what a cycle commands, and what it keeps. -/
theorem cycleCommandsOutputsOnce : Obligations.CycleCommandsOutputsOnce := by
  intro s hmode hloop hrun hl
  obtain ⟨⟨es, hevents, hduties, hready⟩, hzero⟩ := callerCycle_commands s
  have hrdy := callerCycle_readyOut s
  refine ⟨_, es, exec_stepCycle hmode hloop hrun hl, hevents, hduties, length_eq_of_ident (callerCycle_ident s), hready,
    fun hdis => ⟨?_, fun c hc => ?_⟩, fun hen => ?_, by simp, by simp, by simpa using hrun, by simpa using hmode, rfl, rfl,
    by simp, ?_, by simp, by simp⟩
  · rw [respondOk_readyOut, hrdy, hdis]
    rfl
  · obtain ⟨i, hi, rfl⟩ := List.mem_iff_getElem.mp hc
    exact hzero (by simp [hdis]) (i, _) (List.mem_mapIdx.mpr ⟨i, hi, rfl⟩)
  · rw [respondOk_readyOut, hrdy, hen]
    rfl
  · rw [respondOk, callerCycle_replies]
    rfl

end Sys2Proof.Machine

namespace Sys2Proof.Machine

/-! ### R100, R102 with one attempt: a read of a cycle, its answer scripted -/

/-- What a read that is answered by `a` leaves in the receive buffer: what follows the frame, or nothing after a reset. -/
def unreadOf (p : Params) (a : List Byte) : List Byte := if (readingOf p a).isSome then a.drop 7 else []

/-- The events of a read of which the one attempt fails. -/
theorem attemptEvents_read_fails {p : Params} {a : List Byte} (b : Byte) (h : readingOf p a = none) :
    attemptEvents (readTxn p b) [a] = [.tx (req3 b p.regTemp), answerEvent (answerOf 7 a), .reset,
      .log (.attemptFailed b (if 7 ≤ a.length then .crcBad else .timeout) 1)] := by
  have hfails := failureEvents_of_error (t := readTxn p b) (judge_read_of_none h)
  exact (List.append_nil _).trans hfails

/-- A read with one attempt is its answer: the reading, the events, and what stays in the buffer. -/
theorem readTemperature_once {s : State} {a : List Byte} {rest : List (List Byte)} (b : Byte) (hatt : s.par.attRead = 1)
    (hrx : s.env.rx = a :: rest) : ∃ res es, readTemperature b s =
      (res, { s with
        txn := none
        rxbuf := unreadOf s.par a
        events := s.events ++ es
        env := { s.env with rx := rest } }) ∧
      res.toOption = readingOf s.par a ∧ ∀ k c, c.addr = b → es ++ noReadingLog k res = readEvents s.par k c a := by
  cases ha : readingOf s.par a with
  | some m =>
    have hread := readTemperature_reads (b := b) (fails := []) (by simp) (by simp [hatt]) hrx ha
    refine ⟨.ok m, [.tx (req3 b s.par.regTemp), .rx (a.take 7)], hread.trans ?_, rfl, fun k c hb => ?_⟩
    · simp [acceptedTxnState, unreadOf, ha, attemptEvents, readTxn, newTxn]
    · simp [noReadingLog, readEvents, ha, hb]
  | none =>
    have hread := readTemperature_fails (b := b) (fails := []) (by simp) (by simp [hatt]) hrx ha
    refine ⟨.error (if 7 ≤ a.length then .busChecksumMismatch else .busTimeout), attemptEvents (readTxn s.par b) [a],
      hread.trans ?_, rfl, fun k c hb => ?_⟩
    · simp [failedTxnState, unreadOf, ha]
    · rw [attemptEvents_read_fails b ha]
      by_cases hlen : 7 ≤ a.length <;> simp [noReadingLog, readEvents, ha, hb, hlen, answerOf, answerEvent]

/-! ### R122: one channel of a caller-mode cycle, the environment scripted -/

theorem cycleChan_addr (p : Params) (en : Bool) (now : Nat) (a : List Byte) (c : Channel) :
    (cycleChan p en now a c).addr = c.addr := by
  cases en with
  | false => rfl
  | true =>
    have hident := compute_ident p (readingOf p a) (advance p (readingOf p a) now { c with lastReading := readingOf p a })
    rw [advance_ident] at hident
    exact congrArg Prod.snd hident

/-- One channel: its read, then the duty; the time is looked at once while control is enabled, and not at all while it is
disabled. -/
theorem callerChan_scripted {s : State} {en ok : Bool} {k : Nat} {c : Channel} {a : List Byte} {rest : List (List Byte)}
    {acts : List Bool} {ds now : List Nat} (hatt : s.par.attRead = 1) (hc : s.ch[k]? = some c) (hrx : s.env.rx = a :: rest)
    (hact : s.env.act = ok :: acts) (hnow : s.env.now = ds ++ now) (hds : ds.length = if en then 1 else 0) (c' : Channel)
    (hc' : c' = cycleChan s.par en (s.env.clock + ds.sum) a c) : callerChan en k s = { s with
      seq := .cycle k
      txn := none
      rxbuf := unreadOf s.par a
      ch := s.ch.set k c'
      events := s.events ++ (readEvents s.par k c' a ++ .duty k c'.dutyOut :: dutyLog k c'.dutyOut ok)
      env := { s.env with rx := rest, act := acts, now := now, clock := s.env.clock + ds.sum } } := by
  obtain ⟨res, es, hread, hres, hevents⟩ := readTemperature_once (s := { s with seq := .cycle k }) c.addr hatt hrx
  have hlog := hevents k c' (by rw [hc', cycleChan_addr])
  simp only [callerChan, hc, hread]
  dsimp only at hres hlog
  rw [← hlog]
  cases en with
  | false =>
    obtain rfl : ds = [] := List.length_eq_zero_iff.mp hds
    rw [chanDone_disabled_scripted res (by exact hc) (by exact hact), hc']
    simp [cycleChan, hres, hnow]
  | true =>
    obtain ⟨d, rfl⟩ := List.length_eq_one_iff.mp hds
    rw [chanDone_enabled_scripted res (by exact hc) (by exact hact) (by exact hnow) c' (by simp [hc', cycleChan, hres])]
    simp

/-! ### Lists taken and dropped one entry further -/

theorem take_succ_of_getElem? {α : Type} {l : List α} {m : Nat} {y : α} (h : l[m]? = some y) :
    l.take (m + 1) = l.take m ++ [y] := by
  rw [List.take_add_one, h, Option.toList_some]

theorem drop_of_getElem? {α : Type} {l : List α} {m : Nat} {y : α} (h : l[m]? = some y) :
    l.drop m = y :: l.drop (m + 1) := by
  obtain ⟨hm, rfl⟩ := List.getElem?_eq_some_iff.mp h
  exact List.drop_eq_getElem_cons hm

theorem sum_take_succ (l : List Nat) (m : Nat) : (l.take (m + 1)).sum = (l.take m).sum + ((l.drop m).take 1).sum := by
  rw [List.take_add, List.sum_append]

theorem drop_eq_take_one_append {α : Type} (l : List α) (m : Nat) : l.drop m = (l.drop m).take 1 ++ l.drop (m + 1) := by
  rw [← List.drop_drop, List.take_append_drop]

/-! ### R116, R121, R122: a whole cycle, the environment scripted -/

/-- What the environment answers in a cycle of one attempt a read, and what it has for later. -/
structure CycleScript where
  answers : List (List Byte)
  rx : List (List Byte)
  oks : List Bool
  act : List Bool
  times : List Nat
  now : List Nat

namespace CycleScript

/-- The script is the environment's for a cycle from `s`: a bus answer and a driver's answer for each channel, and a time for each while
control is enabled. -/
structure Governs (x : CycleScript) (s : State) : Prop where
  attempts : s.par.attRead = 1
  answers_length : x.answers.length = s.chanCount
  oks_length : x.oks.length = s.chanCount
  times_length : x.times.length = if s.loop = .runEn then s.chanCount else 0
  rx_eq : s.env.rx = x.answers ++ x.rx
  act_eq : s.env.act = x.oks ++ x.act
  now_eq : s.env.now = x.times ++ x.now

/-- The channels as the cycle leaves them. -/
def chans (x : CycleScript) (s : State) : List Channel :=
  (s.ch.zip x.answers).mapIdx fun i y =>
    cycleChan s.par (s.loop == .runEn) (s.env.clock + (x.times.take (i + 1)).sum) y.2 y.1

/-- The events of each channel in the cycle. -/
def chanEvents (x : CycleScript) (s : State) : List (List Event) :=
  ((x.chans s).zip (x.answers.zip x.oks)).mapIdx fun i y =>
    readEvents s.par i y.1 y.2.1 ++ .duty i y.1.dutyOut :: dutyLog i y.1.dutyOut y.2.2

/-- The state when the first `m` channels of the cycle are done. -/
def after (x : CycleScript) (s : State) (m : Nat) : State :=
  { s with
    seq := if m = 0 then s.seq else .cycle (m - 1)
    txn := if m = 0 then s.txn else none
    rxbuf := (x.answers.take m).foldl (fun _ a => unreadOf s.par a) s.rxbuf
    ch := (x.chans s).take m ++ s.ch.drop m
    events := s.events ++ ((x.chanEvents s).take m).flatten
    env := { s.env with
      rx := x.answers.drop m ++ x.rx
      act := x.oks.drop m ++ x.act
      now := x.times.drop m ++ x.now
      clock := s.env.clock + (x.times.take m).sum } }

theorem after_zero {x : CycleScript} {s : State} (h : x.Governs s) : x.after s 0 = s := by
  simp [after, ← h.rx_eq, ← h.act_eq, ← h.now_eq]

theorem Governs.chans_length {x : CycleScript} {s : State} (h : x.Governs s) : (x.chans s).length = s.chanCount := by
  simp [chans, h.answers_length, State.chanCount]

theorem chans_getElem? (x : CycleScript) (s : State) {m : Nat} {c : Channel} {a : List Byte} (hc : s.ch[m]? = some c)
    (ha : x.answers[m]? = some a) : (x.chans s)[m]? =
      some (cycleChan s.par (s.loop == .runEn) (s.env.clock + (x.times.take (m + 1)).sum) a c) := by
  have hpair : (s.ch.zip x.answers)[m]? = some (c, a) := List.getElem?_zip_eq_some.mpr ⟨hc, ha⟩
  simp [chans, hpair]

theorem chanEvents_getElem? (x : CycleScript) (s : State) {m : Nat} {c : Channel} {a : List Byte} {ok : Bool}
    (hc : (x.chans s)[m]? = some c) (ha : x.answers[m]? = some a) (hok : x.oks[m]? = some ok) : (x.chanEvents s)[m]? =
      some (readEvents s.par m c a ++ .duty m c.dutyOut :: dutyLog m c.dutyOut ok) := by
  have htriple : ((x.chans s).zip (x.answers.zip x.oks))[m]? = some (c, a, ok) :=
    List.getElem?_zip_eq_some.mpr ⟨hc, List.getElem?_zip_eq_some.mpr ⟨ha, hok⟩⟩
  simp [chanEvents, htriple]

/-- The next time the cycle looks at, if it looks at any. -/
theorem Governs.times_drop {x : CycleScript} {s : State} {m : Nat} (h : x.Governs s) (hm : m < s.chanCount) :
    ((x.times.drop m).take 1).length = if (s.loop == .runEn) = true then 1 else 0 := by
  rw [List.length_take, List.length_drop, h.times_length]
  by_cases hloop : s.loop = .runEn
  · simp only [hloop, beq_self_eq_true, if_true]
    omega
  · simp [hloop]

/-- One more channel: its share of the script is used up, and its part of the outcome is there. -/
theorem callerChan_after {x : CycleScript} {s : State} {m : Nat} (h : x.Governs s) (hm : m < s.chanCount) :
    callerChan (s.loop == .runEn) m (x.after s m) = x.after s (m + 1) := by
  obtain ⟨c, hc⟩ : ∃ c, s.ch[m]? = some c := ⟨_, List.getElem?_eq_getElem hm⟩
  obtain ⟨a, ha⟩ : ∃ a, x.answers[m]? = some a := ⟨_, List.getElem?_eq_getElem (h.answers_length ▸ hm)⟩
  obtain ⟨ok, hok⟩ : ∃ ok, x.oks[m]? = some ok := ⟨_, List.getElem?_eq_getElem (h.oks_length ▸ hm)⟩
  obtain ⟨c', hcycle⟩ : ∃ c', c' = cycleChan s.par (s.loop == .runEn) (s.env.clock + (x.times.take (m + 1)).sum) a c :=
    ⟨_, rfl⟩
  have hc' := chans_getElem? x s hc ha
  rw [← hcycle] at hc'
  rw [sum_take_succ, ← Nat.add_assoc] at hcycle
  have hlen : ((x.chans s).take m).length = m := by rw [List.length_take, h.chans_length, Nat.min_eq_left hm.le]
  have hch : (x.after s m).ch[m]? = some c := by simp [after, List.getElem?_append_right, hlen, hc]
  have hset : (x.after s m).ch.set m c' = (x.after s (m + 1)).ch := by
    simp only [after, take_succ_of_getElem? hc', drop_of_getElem? hc]
    simp [List.set_append_right, hlen]
  have hscripted := callerChan_scripted (s := x.after s m) (a := a) (rest := x.answers.drop (m + 1) ++ x.rx) (ok := ok)
    (acts := x.oks.drop (m + 1) ++ x.act) (ds := (x.times.drop m).take 1) (now := x.times.drop (m + 1) ++ x.now)
    h.attempts hch (by simp only [after, drop_of_getElem? ha, List.cons_append])
    (by simp only [after, drop_of_getElem? hok, List.cons_append])
    (by rw [← List.append_assoc, ← drop_eq_take_one_append]; rfl) (h.times_drop hm) c' hcycle
  have hrxbuf : unreadOf (x.after s m).par a = (x.after s (m + 1)).rxbuf := by
    simp only [after, take_succ_of_getElem? ha, List.foldl_append, List.foldl_cons, List.foldl_nil]
  have hevents : (x.after s m).events ++ (readEvents s.par m c' a ++ .duty m c'.dutyOut :: dutyLog m c'.dutyOut ok) =
      (x.after s (m + 1)).events := by
    simp only [after, take_succ_of_getElem? (chanEvents_getElem? x s hc' ha hok), List.flatten_append, List.flatten_singleton,
      List.append_assoc]
  have hclock : (x.after s m).env.clock + ((x.times.drop m).take 1).sum = (x.after s (m + 1)).env.clock := by
    simp only [after, sum_take_succ x.times m, Nat.add_assoc]
  refine hscripted.trans ?_
  rw [hset, hrxbuf, hclock]
  exact congrArg (fun es => { x.after s (m + 1) with events := es }) hevents

theorem foldl_callerChan {x : CycleScript} {s : State} {m : Nat} (h : x.Governs s) (hm : m ≤ s.chanCount) :
    (List.range m).foldl (fun t k => callerChan (s.loop == .runEn) k t) s = x.after s m := by
  induction m with
  | zero => exact (after_zero h).symm
  | succ m ih =>
    rw [List.range_succ, List.foldl_append, ih (by omega)]
    exact callerChan_after h hm

theorem Governs.chanEvents_length {x : CycleScript} {s : State} (h : x.Governs s) : (x.chanEvents s).length = s.chanCount := by
  simp [chanEvents, h.chans_length, h.answers_length, h.oks_length]

theorem Governs.times_length_le {x : CycleScript} {s : State} (h : x.Governs s) : x.times.length ≤ s.chanCount := by
  rw [h.times_length]
  split
  · exact le_rfl
  · exact Nat.zero_le _

/-- Past the last channel the whole script is used up. -/
theorem after_all {x : CycleScript} {s : State} {last : List Byte} (h : x.Governs s) (hlast : x.answers.getLast? = some last) :
    x.after s s.chanCount = { s with
      seq := .cycle (s.chanCount - 1)
      txn := none
      rxbuf := unreadOf s.par last
      ch := x.chans s
      events := s.events ++ (x.chanEvents s).flatten
      env := { s.env with rx := x.rx, act := x.act, now := x.now, clock := s.env.clock + x.times.sum } } := by
  obtain ⟨firsts, hfirsts⟩ := List.getLast?_eq_some_iff.mp hlast
  have hpos : s.chanCount ≠ 0 := by rw [← h.answers_length, hfirsts]; simp
  have hbuf : (x.answers.take s.chanCount).foldl (fun _ a => unreadOf s.par a) s.rxbuf = unreadOf s.par last := by
    rw [List.take_of_length_le h.answers_length.le, hfirsts, List.foldl_append]
    rfl
  have hchans : (x.chans s).take s.chanCount ++ s.ch.drop s.chanCount = x.chans s := by
    rw [List.take_of_length_le h.chans_length.le, State.chanCount, List.drop_length, List.append_nil]
  rw [after, hbuf, hchans, if_neg hpos, if_neg hpos, List.take_of_length_le h.chanEvents_length.le,
    List.take_of_length_le h.times_length_le, List.drop_of_length_le h.answers_length.le,
    List.drop_of_length_le h.oks_length.le, List.drop_of_length_le h.times_length_le]
  rfl

/-- A whole cycle in caller mode: every channel in order, then the ready bit. -/
theorem callerCycle_scripted {x : CycleScript} {s : State} {last : List Byte} {okReady rdy : Bool} {act : List Bool}
    (h : x.Governs s) (hlast : x.answers.getLast? = some last) (hact : x.act = okReady :: act)
    (hrdy : rdy = (s.loop == .runEn && readiness s.par (x.chans s))) : callerCycle s = { s with
      ch := x.chans s
      rxbuf := unreadOf s.par last
      txn := none
      events := s.events ++ (x.chanEvents s).flatten ++ .ready rdy :: readyLog rdy okReady
      readyOut := rdy
      seq := .stopped
      lock := .free
      env := { s.env with rx := x.rx, act := act, now := x.now, clock := s.env.clock + x.times.sum } } := by
  have hgoverns : x.Governs (acquire .host s) := { h with }
  have hfold : forChans (callerChan (s.loop == .runEn)) (acquire .host s) = x.after (acquire .host s) s.chanCount :=
    foldl_callerChan hgoverns le_rfl
  have hall : x.after (acquire .host s) s.chanCount = _ := after_all hgoverns hlast
  rw [callerCycle, hfold, hall, finishCycle_scripted .stopped hact hrdy]
  rfl

end CycleScript

/-- Settles O35: the environment's answers are a script, and the cycle follows it channel by channel. -/
theorem callerCycleIsChannelwise : Obligations.CallerCycleIsChannelwise := by
  intro s answers rx oks act okReady ds now last hmode hloop hrun hl hatt hanswers hlast hrx hoks hact hds hnow chs rdy hchs hrdy
  have hscript : CycleScript.Governs ⟨answers, rx, oks, okReady :: act, ds, now⟩ s :=
    ⟨hatt, hanswers, hoks, hds, hrx, hact, hnow⟩
  subst hchs
  rw [exec_stepCycle hmode hloop hrun hl, CycleScript.callerCycle_scripted hscript hlast rfl hrdy]
  cases s
  cases hl
  rfl

end Sys2Proof.Machine

namespace Sys2Proof.Machine

/-! ### R124, R126: the output lanes follow the output commands -/

/-- A lane after the duty commands `ds`: the last one for its channel, or what it was. -/
def drive (ds : List (Nat × Nat)) (x : Nat × Nat) : Nat × Nat :=
  (x.1, ((ds.filter fun y => y.1 == x.1).getLast?.map Prod.snd).getD x.2)

theorem map_drive_nil (l : List (Nat × Nat)) : l.map (drive []) = l := List.map_id l

theorem drive_append (ds ds' : List (Nat × Nat)) (x : Nat × Nat) : drive (ds ++ ds') x = drive ds' (drive ds x) := by
  simp only [drive, List.filter_append, List.getLast?_append]
  cases (ds'.filter fun y => y.1 == x.1).getLast? <;> rfl

theorem lanes_getElem? (s : State) (i : Nat) : s.lanes[i]? = s.ch[i]?.map fun c => (i, c.dutyOut) :=
  List.getElem?_mapIdx

theorem lanes_set_eq_map_drive (s : State) (k d : Nat) : s.lanes.set k (k, d) = s.lanes.map (drive [(k, d)]) := by
  apply List.ext_getElem?
  intro i
  rw [List.getElem?_set, List.getElem?_map, lanes_length, lanes_getElem?]
  by_cases hik : k = i
  · subst hik
    by_cases hk : k < s.ch.length <;> simp [State.chanCount, drive, hk]
  · cases s.ch[i]? <;> simp [drive, hik]

/-- A rewriting of channel `i` that keeps its duty touches no lane. -/
theorem lanes_of_modify {i : Nat} {g : Channel → Channel} {s t : State} (h : t.ch = s.ch.modify i g)
    (hg : ∀ c, (g c).dutyOut = c.dutyOut) : t.lanes = s.lanes := by
  apply List.ext_getElem?
  intro k
  rw [lanes_getElem?, lanes_getElem?, h, List.getElem?_modify]
  by_cases hik : i = k <;> cases s.ch[k]? <;> simp [hik, hg]

theorem lanes_of_map {g : Channel → Channel} {s t : State} (h : t.ch = s.ch.map g) (hg : ∀ c, (g c).dutyOut = c.dutyOut) :
    t.lanes = s.lanes := by
  apply List.ext_getElem?
  intro k
  rw [lanes_getElem?, lanes_getElem?, h, List.getElem?_map]
  cases s.ch[k]? <;> simp [hg]

theorem enableChan_dutyOut (c : Channel) : (enableChan c).dutyOut = c.dutyOut := by
  unfold enableChan snap
  split <;> rfl

/-- Between `s` and `t` the duties `ds` and the ready bits `rs` have been commanded, in order, and the recorded outputs are the last
commanded. -/
structure Outputs (s t : State) (ds : List (Nat × Nat)) (rs : List Bool) : Prop where
  commands : Commands s t ds rs
  lanes : t.lanes = s.lanes.map (drive ds)
  ready : t.readyOut = rs.getLast?.getD s.readyOut

namespace Outputs

theorem trans {s t u : State} {ds ds' : List (Nat × Nat)} {rs rs' : List Bool} (h : Outputs s t ds rs)
    (h' : Outputs t u ds' rs') : Outputs s u (ds ++ ds') (rs ++ rs') := by
  refine ⟨h.commands.trans h'.commands, ?_, ?_⟩
  · rw [h'.lanes, h.lanes, List.map_map]
    exact List.map_congr_left fun x _ => (drive_append ds ds' x).symm
  · rw [h'.ready, h.ready, List.getLast?_append]
    cases rs'.getLast? <;> rfl

/-- Neither a command nor a change of an output. -/
theorem silent {s t : State} (hcmd : Commandless s t) (hready : t.readyOut = s.readyOut) (hlanes : t.lanes = s.lanes) :
    Outputs s t [] [] :=
  ⟨hcmd, hlanes.trans (map_drive_nil _).symm, hready⟩

theorem of_eq {s t : State} (hevents : t.events = s.events) (hready : t.readyOut = s.readyOut) (hch : t.ch = s.ch) :
    Outputs s t [] [] :=
  .silent (.of_events hevents) hready (lanes_of_ch hch)

theorem refl (s : State) : Outputs s s [] [] := .of_eq rfl rfl rfl

/-- Up to any state that has the outputs and the history of the one reached. -/
theorem to_eq {s t t' : State} {ds : List (Nat × Nat)} {rs : List Bool} (h : Outputs s t ds rs)
    (hevents : t'.events = t.events) (hready : t'.readyOut = t.readyOut) (hch : t'.ch = t.ch) : Outputs s t' ds rs := by
  simpa using h.trans (.of_eq hevents hready hch)

end Outputs

theorem DrivesLane.outputs {k d : Nat} {s t : State} (h : DrivesLane k d s t) (hready : t.readyOut = s.readyOut) :
    Outputs s t [(k, d)] [] :=
  ⟨h.commands, h.lanes.trans (lanes_set_eq_map_drive s k d), hready⟩

/-! #### The operations on the outputs -/

theorem setDuty_outputs (k d : Nat) (s : State) : Outputs s (setDuty k d s) [(k, d)] [] :=
  (setDuty_drivesLane k d s).outputs (setDuty_readyOut k d s)

theorem setReady_outputs (b : Bool) (s : State) : Outputs s (setReady b s) [] [b] :=
  ⟨setReady_commands b s, (lanes_of_ch (setReady_ch b s)).trans (map_drive_nil _).symm, rfl⟩

theorem modChan_outputs (i : Nat) {g : Channel → Channel} (hg : ∀ c, (g c).dutyOut = c.dutyOut) (s : State) :
    Outputs s (modChan i g s) [] [] :=
  .silent (.of_events rfl) rfl (lanes_of_modify rfl hg)

theorem exitChan_outputs (i : Nat) (s : State) : Outputs s (exitChan i s) [(i, 0)] [] :=
  (setDuty_outputs i 0 s).trans (modChan_outputs i (g := clearPid) (fun _ => rfl) _)

theorem disableChan_outputs (i : Nat) (s : State) : Outputs s (disableChan i s) [(i, 0)] [] :=
  (modChan_outputs i (g := clearPid) (fun _ => rfl) s).trans (setDuty_outputs i 0 _)

theorem storeReading_outputs (k : Nat) (res : Except ResultCode F) (s : State) : Outputs s (storeReading k res s) [] [] :=
  .silent (storeReading_commandless k res s) (storeReading_readyOut k res s)
    (lanes_of_modify (storeReading_ch k res s) fun _ => rfl)

theorem actuate_outputs (k : Nat) (s : State) : ∃ ds, Outputs s (actuate k s) ds [] := by
  by_cases hk : k < s.chanCount
  · obtain ⟨d, hd⟩ := actuate_drivesLane hk
    exact ⟨_, hd.outputs (actuate_readyOut k s)⟩
  · have hnone : s.ch[k]? = none := List.getElem?_eq_none (Nat.le_of_not_lt hk)
    refine ⟨[], ?_⟩
    rw [actuate, hnone]
    exact .refl s

theorem chanDone_outputs (k : Nat) (en : Bool) (res : Except ResultCode F) (s : State) :
    ∃ ds, Outputs s (chanDone k en res s) ds [] := by
  have hread := storeReading_outputs k res s
  cases en with
  | false => exact ⟨_, hread.trans (setDuty_outputs k 0 _)⟩
  | true =>
    obtain ⟨ds, hds⟩ := actuate_outputs k (storeReading k res s)
    exact ⟨_, hread.trans hds⟩

theorem readTemperature_outputs (a : Byte) (s : State) : Outputs s (readTemperature a s).2 [] [] :=
  .silent (readTemperature_commandless a s) (readTemperature_readyOut a s) (lanes_of_ch (readTemperature_ch a s))

theorem callerChan_outputs (en : Bool) (k : Nat) (s : State) : ∃ ds, Outputs s (callerChan en k s) ds [] := by
  unfold callerChan
  split
  · exact ⟨[], .refl s⟩
  · next c _ =>
    have henter : Outputs s { s with seq := .cycle k } [] [] := .of_eq rfl rfl rfl
    obtain ⟨ds, hds⟩ := chanDone_outputs k en (readTemperature c.addr { s with seq := .cycle k }).1
      (readTemperature c.addr { s with seq := .cycle k }).2
    exact ⟨_, (henter.trans (readTemperature_outputs c.addr _)).trans hds⟩

/-- A loop over the channels commands what its rounds command. -/
theorem forChans_outputs {body : Nat → State → State} (h : ∀ i s, ∃ ds, Outputs s (body i s) ds []) (s : State) :
    ∃ ds, Outputs s (forChans body s) ds [] := by
  refine forChans_induction (P := fun t => ∃ ds, Outputs s t ds []) (fun i t ht => ?_) ⟨[], .refl s⟩
  obtain ⟨ds, hds⟩ := ht
  obtain ⟨ds', hds'⟩ := h i t
  exact ⟨_, hds.trans hds'⟩

/-! ### R121, R125: what an operation does to the outputs -/

/-- R125: control is enabled and every channel is within its readiness band. -/
def enabledAndReady (s : State) : Bool := s.loop == .runEn && readiness s.par s.ch

/-- Between `s` and `t` the outputs have followed their commands, and ready has been commanded at most once, as it is to be in `t`. -/
def Drives (s t : State) : Prop := ∃ ds rs, Outputs s t ds rs ∧ (rs = [] ∨ rs = [enabledAndReady t])

/-- Where no ready bit is commanded, the loop state and the readings do not matter. -/
theorem Outputs.drives {s t : State} {ds : List (Nat × Nat)} (h : Outputs s t ds []) : Drives s t := ⟨ds, [], h, .inl rfl⟩

/-- The part of the state that `Drives` speaks of. -/
def outputView (s : State) : Params × Loop × List Event × Bool × List Channel := (s.par, s.loop, s.events, s.readyOut, s.ch)

theorem outputView_eq_iff {s t : State} : outputView t = outputView s ↔
    t.par = s.par ∧ t.loop = s.loop ∧ t.events = s.events ∧ t.readyOut = s.readyOut ∧ t.ch = s.ch := by
  simp [outputView]

namespace Drives

/-- What comes before, if it commands no ready bit, does not matter. -/
theorem after {s s' t : State} {ds : List (Nat × Nat)} (h : Drives s' t) (hs : Outputs s s' ds []) : Drives s t := by
  obtain ⟨ds', rs, hout, hrs⟩ := h
  exact ⟨ds ++ ds', rs, hs.trans hout, hrs⟩

theorem of_view {s t : State} (h : outputView t = outputView s) : Drives s t := by
  obtain ⟨-, -, hevents, hready, hch⟩ := outputView_eq_iff.mp h
  exact (Outputs.of_eq hevents hready hch).drives

/-- What is done in `s'` is done in `s` where the two agree. -/
theorem from_view {s s' t : State} (h : Drives s' t) (hv : outputView s' = outputView s) : Drives s t := by
  obtain ⟨-, -, hevents, hready, hch⟩ := outputView_eq_iff.mp hv
  exact h.after (.of_eq hevents hready hch)

/-- What is done is done up to any state that agrees with the one reached. -/
theorem to_view {s t t' : State} (h : Drives s t) (hv : outputView t' = outputView t) : Drives s t' := by
  obtain ⟨hpar, hloop, hevents, hready, hch⟩ := outputView_eq_iff.mp hv
  obtain ⟨ds, rs, hout, hrs⟩ := h
  have hsame : enabledAndReady t' = enabledAndReady t := by simp only [enabledAndReady, hpar, hloop, hch]
  exact ⟨ds, rs, hout.to_eq hevents hready hch, hsame ▸ hrs⟩

/-- A command that takes the lock, seen from outside it. -/
theorem locked {s t : State} (h : Drives (acquire .host s) t) : Drives s (release t) :=
  (h.from_view (s := s) rfl).to_view rfl

end Drives

/-- Duties are commanded, then ready 0, and control is not enabled after it. -/
theorem setReady_false_drives {s s' t : State} {ds : List (Nat × Nat)} (h : Outputs s s' ds []) (hloop : t.loop ≠ .runEn)
    (hevents : t.events = (setReady false s').events) (hready : t.readyOut = false) (hch : t.ch = (setReady false s').ch) :
    Drives s t := by
  have hnot : enabledAndReady t = false := by simp [enabledAndReady, hloop]
  exact ⟨_, [false], (h.trans (setReady_outputs false s')).to_eq hevents hready hch, .inr (by rw [hnot])⟩

theorem engineExit_drives (s : State) : Drives s (engineExit s) := by
  obtain ⟨ds, hds⟩ := forChans_outputs (fun i t => ⟨_, exitChan_outputs i t⟩) s
  exact setReady_false_drives hds nofun rfl rfl rfl

theorem callerExit_drives (s : State) : Drives s (callerExit s) :=
  ((engineExit_drives (acquire .host s)).from_view (s := s) rfl).to_view rfl

theorem finishCycle_drives (q : Seq) (s : State) : Drives s (finishCycle q s) := by
  have hready : enabledAndReady (finishCycle q s) = (s.loop == .runEn && readiness s.par s.ch) := by simp [enabledAndReady]
  exact ⟨[], [_], (setReady_outputs _ s).to_eq rfl rfl rfl, .inr (by rw [hready])⟩

theorem callerCycle_drives (s : State) : Drives s (callerCycle s) := by
  obtain ⟨ds, hds⟩ := forChans_outputs (callerChan_outputs (s.loop == .runEn)) (acquire .host s)
  have hcycle : Drives (acquire .host s) (callerCycle s) := (finishCycle_drives .stopped _).after (hds.to_eq rfl rfl rfl)
  exact hcycle.from_view rfl

/-! ### R100, R122: transactions -/

theorem afterRead_drives (res : Except Cause Half) (s : State) : Drives s (afterRead res s) := by
  unfold afterRead
  split
  · next k _ =>
    obtain ⟨ds, hds⟩ := chanDone_outputs k (s.loop == .runEn) (readResult s.par res) s
    exact hds.drives.to_view rfl
  · exact .of_view rfl

theorem afterRead_closed_drives (res : Except Cause Half) (s : State) : Drives s (afterRead res (closeTxn s)) :=
  (afterRead_drives res (closeTxn s)).from_view rfl

theorem answerEvent_commandless (r : Option (List Byte)) (s : State) : Commandless s (addEvent (answerEvent r) s) := by
  refine ⟨[answerEvent r], rfl, ?_⟩
  cases r <;> exact ⟨rfl, rfl⟩

theorem onAnswer_drives (t : Txn) (r : Option (List Byte)) (s : State) : Drives s (onAnswer t r s) := by
  have hanswer : Outputs s (addEvent (answerEvent r) s) [] [] := .silent (answerEvent_commandless r s) rfl rfl
  unfold onAnswer
  split
  · exact (afterRead_closed_drives _ (addEvent (answerEvent r) s)).after hanswer
  · next c _ =>
    have hfailed : Outputs s (recover t c (addEvent (answerEvent r) s)) [] [] :=
      hanswer.trans (.silent (recover_commandless t c _) rfl rfl)
    dsimp only
    split
    · exact (afterRead_closed_drives _ (recover t c (addEvent (answerEvent r) s))).after hfailed
    · exact hfailed.drives.to_view rfl

theorem acceptFrame_drives (f : List Byte) (s : State) : Drives s (acceptFrame f s) := by
  unfold acceptFrame
  split
  · split
    · exact onAnswer_drives _ _ s
    · exact .of_view rfl
  · exact .of_view rfl

theorem emitRequest_readyOut (t : Txn) (s : State) : (emitRequest t s).readyOut = s.readyOut := by
  unfold emitRequest
  split
  · split <;> rfl
  · rfl

theorem emitRequest_drives (t : Txn) (s : State) : Drives s (emitRequest t s) :=
  (Outputs.silent ⟨_, emitRequest_events t s, rfl, rfl⟩ (emitRequest_readyOut t s) (lanes_of_ch (emitRequest_ch t s))).drives

theorem transmit_outputs (t : Txn) (s : State) : Outputs s (transmit t s) [] [] :=
  .silent ⟨_, transmit_events t s, rfl, rfl⟩ rfl rfl

/-! ### R102-R104: the bus commands -/

theorem discoverAddress_commandless (s : State) : Commandless s (discoverAddress s).2 := by
  have hread := runAttempts_commandless (s.par.attDisc - 1)
    (newTxn (req3 s.par.bcast s.par.regAddr) 7 s.par.attDisc .disc) s
  unfold discoverAddress
  dsimp only
  split <;> exact hread

theorem assignAddress_commandless (w : Half) (s : State) : Commandless s (assignAddress w s).2 := by
  have hdisc := discoverAddress_commandless s
  unfold assignAddress
  split
  · next heq => rw [heq] at hdisc; exact hdisc
  · next a s₁ heq =>
    rw [heq] at hdisc
    have hwrite := runAttempts_commandless (s₁.par.attWrite - 1) (newTxn (req6 a w) 8 s₁.par.attWrite .echo) s₁
    dsimp only
    split <;> exact hdisc.trans hwrite

/-! ### R112, R113: START and ENABLE -/

theorem startBody_drives (s : State) : Drives s (startBody s) := by
  have hready : (startBody s).readyOut = s.readyOut ∧ (startBody s).ch = s.ch := by
    unfold startBody
    split
    · dsimp only; split <;> simp
    · exact ⟨rfl, rfl⟩
  exact (Outputs.of_eq (startBody_events s) hready.1 hready.2).drives

theorem enableBody_drives (b : Byte) (s : State) : Drives s (enableBody b s) := by
  unfold enableBody
  split
  · split
    · exact Outputs.drives (.silent (.of_events rfl) rfl (lanes_of_map rfl enableChan_dutyOut))
    · split
      · obtain ⟨ds, hds⟩ := forChans_outputs (fun i t => ⟨_, disableChan_outputs i t⟩) s
        exact setReady_false_drives hds nofun rfl rfl rfl
      · exact .of_view rfl
  · exact .of_view rfl

/-! ### Every step -/

theorem execCase_drives {s t : State} {i : Instr} (h : ExecCase s i t) : Drives s t := by
  cases h with
  | start => exact (startBody_drives _).locked
  | enable b => exact (enableBody_drives b _).locked
  | setGains | setSetpoint => exact Outputs.drives (.silent (.of_events rfl) rfl (lanes_of_modify rfl fun _ => rfl))
  | stopCaller => exact (callerExit_drives _).from_view rfl
  | stepCycle => exact (callerCycle_drives s).to_view rfl
  | discover => exact (Outputs.silent (discoverAddress_commandless s) (by simp) (lanes_of_ch (by simp))).drives.to_view rfl
  | assign w => exact (Outputs.silent (assignAddress_commandless w s) (by simp) (lanes_of_ch (by simp))).drives.to_view rfl
  | readTemp b => exact (readTemperature_outputs b s).drives.to_view rfl
  | mbReq3 | mbReq6 => exact emitRequest_drives _ s
  | mbResp3 | mbResp6 => exact acceptFrame_drives _ s
  | refused | blocked | status | stopCallerBlocked | stopAnswered | stopWaits | stepCycleBlocked | crcInit | crcFeed |
    crcRead => exact .of_view rfl

theorem cancel_drives (s : State) : Drives s (cancel s) :=
  ((engineExit_drives (closeTxn s)).from_view (s := s) rfl).to_view (by simp [outputView, cancel])

theorem Intake.outputView {s s' : State} (h : Intake s s') : outputView s' = outputView s := by
  obtain ⟨_, _, _, rfl, _⟩ := h; rfl

theorem stepCase_drives {s t : State} (h : StepCase s t) : Drives s t := by
  cases h with
  | exec hin _ h => exact (execCase_drives h).from_view hin.outputView
  | callerExit => exact (callerExit_drives _).from_view rfl
  | idle hin | refused e hin | enterCycle hin | graceOver hin => exact .of_view hin.outputView
  | accept f hin => exact (acceptFrame_drives f _).from_view hin.outputView
  | timeout hin => exact (onAnswer_drives _ none _).from_view hin.outputView
  | cancel hin => exact (cancel_drives _).from_view hin.outputView
  | cancelRequest => exact (cancel_drives _).after (transmit_outputs _ s)
  | transmit => exact (transmit_outputs _ s).drives
  | @engineExit s' hin =>
    exact (((engineExit_drives (acquire .engine s')).from_view (s := s') rfl).to_view (by simp [outputView])).from_view
      hin.outputView
  | startRead k =>
    refine .of_view ?_
    unfold Machine.startRead
    split <;> rfl
  | finishCycle => exact finishCycle_drives .wait s

theorem step_drives {s t : State} (h : step s = .next t) : Drives s t := stepCase_drives (step_cases h)

/-- A channel's recorded duty after the duty commands `ds`. -/
theorem Outputs.dutyOut {s t : State} {ds : List (Nat × Nat)} {rs : List Bool} (h : Outputs s t ds rs) {i : Nat} {c : Channel}
    (hc : s.ch[i]? = some c) : ∃ c', t.ch[i]? = some c' ∧ c'.dutyOut = (drive ds (i, c.dutyOut)).2 := by
  have hlane : t.lanes[i]? = some (drive ds (i, c.dutyOut)) := by
    rw [h.lanes, List.getElem?_map, lanes_getElem?, hc]
    rfl
  rw [lanes_getElem?] at hlane
  obtain ⟨c', hc', hduty⟩ := Option.map_eq_some_iff.mp hlane
  exact ⟨c', hc', congrArg Prod.snd hduty⟩

/-- Settles O55: every operation drives the lanes as it commands them, and so does every step. -/
theorem lanesFollowCommands : Obligations.LanesFollowCommands := by
  intro s t h
  obtain ⟨ds, rs, hout, -⟩ := step_drives h
  obtain ⟨es, hevents, rfl, rfl⟩ := hout.commands
  exact ⟨es, hevents, hout.ready, fun i c hc => hout.dutyOut hc⟩

/-- Settles O56: a step commands ready at most once, as control and the readings of the state it leaves say. -/
theorem readyOnlyWhenReady : Obligations.ReadyOnlyWhenReady := by
  intro s t es h hes hmem
  obtain ⟨ds, rs, hout, hrs⟩ := step_drives h
  obtain ⟨es', hevents, -, hready⟩ := hout.commands
  obtain rfl : es' = es := List.append_cancel_left (hevents.symm.trans hes)
  have htrue : true ∈ rs := hready ▸ List.mem_filterMap.mpr ⟨_, hmem, rfl⟩
  rcases hrs with rfl | rfl
  · cases htrue
  · have hboth : enabledAndReady t = true := (List.mem_singleton.mp htrue).symm
    obtain ⟨hloop, hband⟩ := Bool.and_eq_true_iff.mp hboth
    exact ⟨beq_iff_eq.mp hloop, hout.ready.trans hboth, hband⟩

end Sys2Proof.Machine

namespace Sys2Proof.Machine

/-! ### R123: duty quantisation -/

/-- An integer is exact; what has bits below the point is rounded by `halfEven`. -/
theorem quant_nearest (m : ℕ) (e : ℤ) : |(m : ℚ) * 2 ^ e - quant (.fin false m e)| ≤ 1 / 2 ∧
    (|(m : ℚ) * 2 ^ e - quant (.fin false m e)| = 1 / 2 → Even (quant (.fin false m e))) := by
  simp only [quant]
  split
  · next he =>
    have hexact : ((m * 2 ^ e.toNat : ℕ) : ℚ) = m * 2 ^ e := by
      push_cast
      rw [← zpow_natCast, Int.toNat_of_nonneg he]
    rw [hexact, sub_self, abs_zero]
    exact ⟨by norm_num, fun h => absurd h (by norm_num)⟩
  · next he =>
    have hscale : (m : ℚ) / 2 ^ (-e).toNat = m * 2 ^ e := by
      rw [← zpow_natCast, Int.toNat_of_nonneg (by omega), zpow_neg, div_inv_eq_mul]
    rw [← hscale]
    exact halfEven_spec (.inl rfl) (.inl rfl)

/-- Settles O30: rounding is to the nearest, and what is within a half of a value up to 100 is an integer up to 100. -/
theorem quantNearestTiesToEven : Obligations.QuantNearestTiesToEven := by
  refine ⟨fun m e hle => ?_, fun _ => rfl⟩
  obtain ⟨hnear, heven⟩ := quant_nearest m e
  obtain ⟨hlo, -⟩ := abs_le.mp hnear
  have hlt : (quant (.fin false m e) : ℚ) < (101 : ℕ) := by push_cast; linarith
  rw [abs_sub_comm]
  exact ⟨hnear, heven, Nat.lt_succ_iff.mp (by exact_mod_cast hlt)⟩

end Sys2Proof.Machine

namespace Sys2Proof.Machine

/-! ### R133, R100, R122: a failed attempt in a cycle -/

theorem quant_zero : quant .zero = 0 := rfl

/-- Without a reading an enabled cycle stops the hold, computes nothing and commands duty 0. -/
theorem enabledChan_none (p : Params) (now : Nat) (c : Channel) : enabledChan p none now c = failedChan true c := by
  simp only [enabledChan, advance, compute, quant_zero, failedChan, if_true]

theorem failedChan_false (c : Channel) : failedChan false c = { c with lastReading := none, dutyOut := 0 } := rfl

theorem judge_resp3_crcBad {t : Txn} {f : List Byte} (hkind : t.kind = .resp3) (hcrc : crcOk f = false) :
    judge t (some f) = .error .crcBad := by
  simp [judge, decodeResponse, hkind, resp3, hcrc]

section FailedAttempt

variable {s : State} {t : Txn} {k : Nat} {c : Channel} {ok : Bool} {acts : List Bool} {d : Nat} {ds : List Nat}
  {r : Option (List Byte)} {cause : Cause}

/-- The environment after one channel of a cycle: `Now()` is read in RUN_EN only. -/
def cycledEnv (l : Loop) (e : Env) (acts : List Bool) (d : Nat) (ds : List Nat) : Env :=
  if l = .runEn then { e with act := acts, now := ds, clock := e.clock + d } else { e with act := acts }

/-- R122 for a channel without a reading: enabled or not, the outcome differs only in the hold and in `Now()`. -/
theorem chanDone_noReading_scripted (l : Loop) (err : ResultCode) (hc : s.ch[k]? = some c) (hact : s.env.act = ok :: acts)
    (hnow : s.env.now = d :: ds) : chanDone k (l == .runEn) (.error err) s = { s with
      ch := s.ch.set k (failedChan (l == .runEn) c)
      events := s.events ++ [.log (.noReading k err)] ++ .duty k 0 :: dutyLog k 0 ok
      env := cycledEnv l s.env acts d ds } := by
  by_cases hloop : l = .runEn
  · rw [beq_iff_eq.mpr hloop, cycledEnv, if_pos hloop]
    exact chanDone_enabled_scripted (.error err) hc hact hnow (failedChan true c) (enabledChan_none _ _ c).symm
  · rw [beq_false_of_ne hloop, cycledEnv, if_neg hloop, failedChan_false]
    exact chanDone_disabled_scripted (.error err) hc hact

/-- A failed attempt below the limit, whatever the answer that failed. -/
theorem onAnswer_error_retried (hjudge : judge t r = .error cause) (hmore : t.attempt < t.lim) :
    onAnswer t r s = retriedState t (answerEvent r) cause s := by
  simp [onAnswer, hjudge, hmore.not_ge, recover_eq, addEvent, retriedState]

/-- The last attempt of a cycle's read: after its recovery the channel is done without a reading. -/
theorem onAnswer_error_cycle (hseq : s.seq = .cycle k) (hjudge : judge t r = .error cause) (hlast : t.lim ≤ t.attempt) :
    onAnswer t r s = enterChan (k + 1) (chanDone k (s.loop == .runEn) (.error (readError cause)) { s with
      rxbuf := []
      txn := none
      events := s.events ++ [answerEvent r, .reset, .log (.attemptFailed (t.req.headD 0) cause t.attempt)] }) := by
  simp [onAnswer, hjudge, hlast, recover_eq, addEvent, closeTxn, afterRead, hseq, readResult]

theorem onAnswer_error_failedRead (hseq : s.seq = .cycle k) (hc : s.ch[k]? = some c) (hact : s.env.act = ok :: acts)
    (hnow : s.env.now = d :: ds) (hjudge : judge t r = .error cause) (hlast : t.lim ≤ t.attempt) :
    onAnswer t r s =
      failedReadState k c t (answerEvent r) cause (readError cause) ok (cycledEnv s.loop s.env acts d ds) s := by
  rw [onAnswer_error_cycle hseq hjudge hlast,
    chanDone_noReading_scripted s.loop (readError cause) (by exact hc) (by exact hact) (by exact hnow)]
  simp [enterChan_next, failedReadState, State.chanCount]

end FailedAttempt

theorem waitTimeout_uncancelled {s : State} {t : Txn} (ht : s.txn = some t) (hgo : cancelled s = false) :
    waitTimeout s = onAnswer t none s := by
  simp [waitTimeout, ht, hgo]

/-- With `g.RUNNING` at 1 the end of a response wait is a failed attempt and no cancellation. -/
theorem step_timeout {s : State} {t : Txn} {rest : List Input} (hpoint : takesInput s) (hin : s.inbox = .timeout :: rest)
    (ht : s.txn = some t) (hrun : s.running = true) : step s = .next (onAnswer t none { s with inbox := rest }) := by
  have hgo : cancelled { s with inbox := rest } = false := not_cancelled (.inr hrun)
  have hwait : waitTimeout { s with inbox := rest } = onAnswer t none { s with inbox := rest } :=
    waitTimeout_uncancelled ht hgo
  apply step_goOn
  rw [nextMove_takesInput hpoint, fetchInput, hin, ← hwait]

/-- Settles O24: a bad CRC and a timeout are answers that the read's decoder refuses; the attempt limit decides what follows. -/
theorem failedAttemptInCycle : Obligations.FailedAttemptInCycle := by
  intro s t k c ok acts d ds ht hsent hlen hkind hseq hc hact hnow
  refine ⟨fun a fn n data crc hcrc => ?_, fun rest hpoint hin hrun => ?_⟩
  · have hexec : exec (.mbResp3 a fn n data crc) s = .next (onAnswer t (some (resp3Bytes a fn n data crc)) s) :=
      congrArg Host.Outcome.next (acceptFrame_awaited ht hsent hlen)
    have hjudge : judge t (some (resp3Bytes a fn n data crc)) = .error .crcBad := judge_resp3_crcBad hkind hcrc
    rw [hexec]
    exact ⟨fun hmore => congrArg Host.Outcome.next (onAnswer_error_retried hjudge hmore),
      fun hlast => congrArg Host.Outcome.next (onAnswer_error_failedRead hseq hc hact hnow hjudge hlast)⟩
  · have hjudge : judge t none = .error .timeout := rfl
    rw [step_timeout hpoint hin ht hrun]
    exact ⟨fun hmore => congrArg Host.Outcome.next (onAnswer_error_retried hjudge hmore),
      fun hlast => congrArg Host.Outcome.next
        (onAnswer_error_failedRead (s := { s with inbox := rest }) hseq hc hact hnow hjudge hlast)⟩

end Sys2Proof.Machine

namespace Sys2Proof.Machine

/-! ### R130: refused commands -/

/-- An answer whose first byte is below the codes of refusals (R128): OK, with or without data, or a bus error. -/
def isServiceAnswer (r : List Byte) : Prop := ∃ b ds, r = b :: ds ∧ b < 0x10

/-- From `s` to `t` no answer that refuses a command is added. -/
def NotRefused (s t : State) : Prop := t.replies = s.replies ∨ ∃ r, t.replies = s.replies ++ [r] ∧ isServiceAnswer r

/-- `t` is `s` with a command refused, or nothing was refused. -/
def RefusedOrNot (s t : State) : Prop := (∃ e, t = raise e s) ∨ NotRefused s t

/-- The answer is all that a refusal adds, and its byte tells it from the answers of the bus and of success. -/
theorem RefusedOrNot.eq_of_refused {s t : State} {code : Byte} (h : RefusedOrNot s t)
    (hans : t.replies = s.replies ++ [[code]]) (hcode : code = 0x10 ∨ code = 0x11 ∨ code = 0x12 ∨ code = 0x13) :
    t = { s with replies := s.replies ++ [[code]] } := by
  rcases h with ⟨e, rfl⟩ | hsame | ⟨r, hr, b, ds, rfl, hb⟩
  · have hcode : codeByte e = code := by simpa [raise] using hans
    rw [raise, hcode]
  · simp [hsame] at hans
  · obtain ⟨rfl, rfl⟩ : b = code ∧ ds = [] := by simpa [hr] using hans
    rcases hcode with rfl | rfl | rfl | rfl <;> simp at hb

section Served

variable {s u : State}

theorem NotRefused.respondOk (h : u.replies = s.replies) (ds : List Byte) : NotRefused s (respondOk ds u) :=
  .inr ⟨_, by rw [Machine.respondOk, h], _, ds, rfl, by decide⟩

theorem NotRefused.raise (h : u.replies = s.replies) {e : ResultCode} (he : codeByte e < 0x10) : NotRefused s (raise e u) :=
  .inr ⟨_, by rw [Machine.raise, h], _, [], rfl, he⟩

/-! #### Bus commands: their errors are those of the bus -/

theorem codeByte_readError_lt (c : Cause) : codeByte (readError c) < 0x10 := by cases c <;> decide

theorem readTemperature_error {b : Byte} {e : ResultCode} (h : readTemperature b s = (.error e, u)) : codeByte e < 0x10 := by
  obtain ⟨hres, -⟩ := Prod.mk.inj h
  unfold readResult at hres
  split at hres
  · cases hres
  · cases hres
    exact codeByte_readError_lt _

theorem discoverAddress_error {e : ResultCode} (h : discoverAddress s = (.error e, u)) : e = .busNoDevice := by
  unfold discoverAddress at h
  dsimp only at h
  split at h <;> cases h
  rfl

theorem assignAddress_error {w : Half} {e : ResultCode} (h : assignAddress w s = (.error e, u)) : codeByte e < 0x10 := by
  unfold assignAddress at h
  dsimp only at h
  split at h
  · cases h
    decide
  · split at h <;> cases h
    decide

end Served

section BusCommands

variable {s t : State}

theorem exec_discover_notRefused (hs : busAllowed s = true) (h : exec .discover s = .next t) : NotRefused s t := by
  have hreplies := discoverAddress_replies s
  rcases hd : discoverAddress s with ⟨e | v, u⟩ <;> rw [hd] at hreplies
  · cases (exec_discover_error hs hd).symm.trans h
    exact .raise hreplies (discoverAddress_error hd ▸ by decide)
  · cases (exec_discover_ok hs hd).symm.trans h
    exact .respondOk hreplies _

theorem exec_assign_notRefused {w : Half} (hs : busAllowed s = true) (h : exec (.assign w) s = .next t) : NotRefused s t := by
  have hreplies := assignAddress_replies w s
  rcases hd : assignAddress w s with ⟨e | v, u⟩ <;> rw [hd] at hreplies
  · cases (exec_assign_error hs hd).symm.trans h
    exact .raise hreplies (assignAddress_error hd)
  · cases (exec_assign_ok hs hd).symm.trans h
    exact .respondOk hreplies _

theorem exec_readTemp_refusedOrNot {b : Byte} (hs : busAllowed s = true) (h : exec (.readTemp b) s = .next t) :
    RefusedOrNot s t := by
  by_cases hb : legalAddr s.par b = true
  · have hreplies := readTemperature_replies b s
    rcases hd : readTemperature b s with ⟨e | v, u⟩ <;> rw [hd] at hreplies
    · cases (exec_readTemp_error hb hs hd).symm.trans h
      exact .inr (.raise hreplies (readTemperature_error hd))
    · cases (exec_readTemp_ok hb hs hd).symm.trans h
      exact .inr (.respondOk hreplies _)
  · cases (if_neg hb).symm.trans h
    exact .inl ⟨_, rfl⟩

end BusCommands

/-! #### Commands that hold the lock, and frames -/

theorem startBody_refusedOrNot {s : State} (hl : s.lock = .free) :
    RefusedOrNot s (release (startBody (acquire .host s))) := by
  by_cases hloop : s.loop = .idle
  · rw [startBody_idle (s := acquire .host s) hloop]
    exact .inr (.inr ⟨_, rfl, _, [], rfl, by decide⟩)
  · rw [startBody_refused (s := acquire .host s) hloop]
    exact .inl ⟨_, released_raise _ hl⟩

theorem enableBody_accepted (b : Byte) {s : State} (h : loopRuns s = true ∧ s.running = true) :
    (enableBody b s).replies = s.replies ++ [[0x00]] := by
  rw [enableBody, if_pos h]
  split
  · rfl
  · split
    · simp [respondOk, codeByte, forChans_keeps State.replies]
    · rfl

theorem enableBody_refusedOrNot (b : Byte) {s : State} (hl : s.lock = .free) :
    RefusedOrNot s (release (enableBody b (acquire .host s))) := by
  by_cases hrun : loopRuns s = true ∧ s.running = true
  · exact .inr (.inr ⟨_, enableBody_accepted b (s := acquire .host s) hrun, _, [], rfl, by decide⟩)
  · rw [enableBody_refused (s := acquire .host s) b hrun]
    exact .inl ⟨_, released_raise _ hl⟩

theorem afterRead_replies (res : Except Cause Half) (s : State) : (afterRead res s).replies = s.replies := by
  unfold afterRead; split <;> simp

theorem onAnswer_replies (t : Txn) (r : Option (List Byte)) (s : State) : (onAnswer t r s).replies = s.replies := by
  unfold onAnswer
  split
  · simp [afterRead_replies]
  · dsimp only
    split <;> simp [afterRead_replies]

theorem acceptFrame_replies (f : List Byte) (s : State) : (acceptFrame f s).replies = s.replies := by
  unfold acceptFrame
  split
  · split
    · exact onAnswer_replies _ _ s
    · rfl
  · rfl

theorem emitRequest_replies (t : Txn) (s : State) : (emitRequest t s).replies = s.replies := by
  unfold emitRequest
  split
  · split <;> rfl
  · rfl

/-- An instruction is refused, and then only answered, or its answer is none of a refusal. -/
theorem exec_refusedOrNot {i : Instr} {s t : State} (h : exec i s = .next t) : RefusedOrNot s t := by
  cases exec_cases h with
  | refused e => exact .inl ⟨e, rfl⟩
  | start hl => exact startBody_refusedOrNot hl
  | enable b hl => exact enableBody_refusedOrNot b hl
  | discover _ hs => exact .inr (exec_discover_notRefused hs h)
  | assign _ _ hs => exact .inr (exec_assign_notRefused hs h)
  | readTemp _ _ hs => exact exec_readTemp_refusedOrNot hs h
  | stopCaller => exact .inr (.respondOk (engineExit_replies _) _)
  | stepCycle => exact .inr (.respondOk (callerCycle_replies s) _)
  | setGains | setSetpoint | status | stopAnswered | crcInit | crcFeed | crcRead => exact .inr (.respondOk rfl _)
  | mbReq3 | mbReq6 => exact .inr (.inl (emitRequest_replies _ s))
  | mbResp3 | mbResp6 => exact .inr (.inl (acceptFrame_replies _ s))
  | blocked | stopCallerBlocked | stopWaits | stepCycleBlocked => exact .inr (.inl rfl)

/-- Settles O58: only `raise` answers one of the four codes, and then in the state that the command was given in. -/
theorem refusalWithoutEffect : Obligations.RefusalWithoutEffect := fun _ _ _ _ h hans hcode =>
  (exec_refusedOrNot h).eq_of_refused hans hcode

end Sys2Proof.Machine

namespace Sys2Proof.Machine

/-! ### R130: the block goes on -/

/-- The outcome is a next state. -/
def HasNext (o : Host.Outcome State Fault Refusal) : Prop := ∃ t, o = .next t

theorem hasNext_next (t : State) : HasNext (.next t) := ⟨t, rfl⟩

theorem hasNext_ite {p : Prop} [Decidable p] {o o' : Host.Outcome State Fault Refusal} (h : HasNext o) (h' : HasNext o') :
    HasNext (if p then o else o') := by
  split
  · exact h
  · exact h'

theorem withLock_hasNext (i : Instr) (body : State → State) (s : State) : HasNext (withLock i body s) :=
  hasNext_ite (hasNext_next _) (hasNext_next _)

/-- Each meaning is a choice between next states. -/
theorem exec_hasNext (i : Instr) (s : State) : HasNext (exec i s) := by
  cases i with
  | start | status => exact withLock_hasNext _ _ s
  | enable | setGains | setSetpoint => exact hasNext_ite (withLock_hasNext _ _ s) (hasNext_next _)
  | stop =>
    exact hasNext_ite (hasNext_ite (hasNext_ite (hasNext_next _) (hasNext_next _))
      (hasNext_ite (hasNext_next _) (hasNext_next _))) (hasNext_next _)
  | stepCycle | readTemp => exact hasNext_ite (hasNext_ite (hasNext_next _) (hasNext_next _)) (hasNext_next _)
  | discover | assign => exact hasNext_ite (hasNext_next _) (hasNext_next _)
  | crcInit | crcFeed | crcRead | mbReq3 | mbReq6 | mbResp3 | mbResp6 => exact hasNext_next _

theorem runMove_hasNext (m : Move) : HasNext (runMove m) := by
  cases m with
  | run i s => exact exec_hasNext i s
  | resume w s =>
    cases w with
    | cmd i => exact exec_hasNext i s
    | callerExit => exact hasNext_next _
  | goOn s => exact hasNext_next s

/-- Settles O45: every instruction has a next state, and a step is an instruction or goes on to a state. -/
theorem nothingStopsTheBlock : Obligations.NothingStopsTheBlock :=
  ⟨exec_hasNext, fun s => runMove_hasNext (nextMove s)⟩

end Sys2Proof.Machine
